-- ==== Sys2Proof/Word.lean ====
section
/-! DEFINITION. The word types of the LS-8: the 8-bit byte (10_state R10, 20_memory R30: every register, address,
immediate and cell is one) and the register index 0 to 7 (10_state R10). -/

namespace Sys2Proof

/-- An unsigned 8-bit value, 0 to 255 (10_state R10, 20_memory R30, R35). -/
abbrev Byte := BitVec 8

/-- The index of a general register, R0 to R7 (10_state R10). -/
abbrev Reg := Fin 8

end Sys2Proof
end

