-- ==== Sys2Proof/Config.lean ====
section
/-! DEFINITION. The parameters of the hardware: the fixed ones of 00_scope R2 as constants, the open ones of R3 as a
record of named choices. HAS_INTERRUPTS has the one value false (R3, D14, D21): there is nothing to choose, and no
interrupt exists in this model. PC_WIDTH has the one value 8: it is the type of the program counter. -/

namespace Sys2Proof

/-- TARGET_MODE (44_control_flow R140, D5): what the operand byte of a jump or CALL is. -/
inductive TargetMode where
  /-- the operand is a register index and the target is the register's content (the default) -/
  | reg
  /-- the operand is the target address itself -/
  | imm
  deriving DecidableEq, Repr

/-- REG_INDEX_POLICY (30_encoding R55, D6): what a register-index operand byte of 8 to 255 does. -/
inductive RegIndexPolicy where
  /-- the step raises InvalidRegister (the default) -/
  | fault
  /-- the low three bits are the index -/
  | mask
  deriving DecidableEq, Repr

/-- PC_OVERFLOW_POLICY (40_execution_cycle R75, R79, D7): what an operand or successor address above 0xFF does. -/
inductive PcOverflowPolicy where
  /-- the step ends in FetchOutOfRange (the default) -/
  | fault
  /-- the address is reduced modulo 256 -/
  | wrap
  deriving DecidableEq, Repr

/-- The open parameters of 00_scope R3 that have more than one value. They are fixed before reset and no step changes
them (10_state R25). -/
structure Config where
  targetMode : TargetMode
  regIndex   : RegIndexPolicy
  pcOverflow : PcOverflowPolicy
  deriving DecidableEq, Repr

/-- The default of every parameter, as 00_scope R3 lists it. -/
def Config.defaults : Config where
  targetMode := .reg
  regIndex   := .fault
  pcOverflow := .fault

/-- MEM_SIZE (00_scope R2): the number of memory cells. -/
abbrev Config.memSize : Nat := 256

/-- SP_INDEX (00_scope R2): R7 is the stack pointer. -/
abbrev Config.spIndex : Reg := 7

/-- SP_RESET (00_scope R2): the stack pointer after reset. -/
abbrev Config.spReset : Byte := 0xF4#8

/-- LOAD_BASE (00_scope R2): the address the image is loaded from. -/
abbrev Config.loadBase : Nat := 0

/-- PC_RESET (00_scope R3, D8): the program counter after reset. -/
abbrev Config.pcReset : Byte := 0x00#8

end Sys2Proof
end

