-- ==== Sys2Proof/Syntax.lean ====
section
/-! DEFINITION. The instruction set of 30_encoding R56 as syntax: one constructor per row of spec/opcode_table.json,
each carrying exactly the operand fields that 40_execution_cycle R76 gives it after decoding. -/

namespace Sys2Proof

/-- The target operand of a jump or CALL, format T (30_encoding R50, 44_control_flow R140). -/
inductive Target where
  /-- TARGET_MODE = reg: the register that holds the target address -/
  | reg (r : Reg)
  /-- TARGET_MODE = imm: the target address itself -/
  | imm (addr : Byte)
  deriving DecidableEq, Repr

/-- The 34 instructions (30_encoding R56). `a` is the first operand, `b` the second. -/
inductive Instr where
  -- format N
  | nop
  | hlt
  | ret
  | iret
  -- format R
  | push (a : Reg)
  | pop (a : Reg)
  | prn (a : Reg)
  | pra (a : Reg)
  -- format T
  | call (t : Target)
  /-- INT. Its operand byte is not fetched and not checked (45_system R162), so it is no field. -/
  | int
  | jmp (t : Target)
  | jeq (t : Target)
  | jne (t : Target)
  | jgt (t : Target)
  | jlt (t : Target)
  | jle (t : Target)
  | jge (t : Target)
  -- format R
  | inc (a : Reg)
  | dec (a : Reg)
  | not (a : Reg)
  -- format RI
  | ldi (a : Reg) (b : Byte)
  -- format RR
  | ld (a b : Reg)
  | st (a b : Reg)
  | add (a b : Reg)
  | sub (a b : Reg)
  | mul (a b : Reg)
  | div (a b : Reg)
  | mod (a b : Reg)
  | cmp (a b : Reg)
  | and (a b : Reg)
  | or (a b : Reg)
  | xor (a b : Reg)
  | shl (a b : Reg)
  | shr (a b : Reg)
  deriving DecidableEq, Repr

end Sys2Proof
end

