-- ==== Sys2Proof/WellFormed.lean ====
section
/-! DEFINITION. Which instructions the hardware has under a setting of its parameters. A register operand is an index
0 to 7 by its type (40_execution_cycle R76); what is left to check is that a target operand has the kind TARGET_MODE
gives it (44_control_flow R140). -/

namespace Sys2Proof

/-- The target operand has the kind that TARGET_MODE fixes (44_control_flow R140). -/
def Target.wellFormed (mode : TargetMode) : Target → Bool
  | .reg _ => mode == .reg
  | .imm _ => mode == .imm

/-- The instruction exists under the parameters `c`. -/
def Instr.wellFormed (c : Config) : Instr → Bool
  | .call t => t.wellFormed c.targetMode
  | .jmp t => t.wellFormed c.targetMode
  | .jeq t => t.wellFormed c.targetMode
  | .jne t => t.wellFormed c.targetMode
  | .jgt t => t.wellFormed c.targetMode
  | .jlt t => t.wellFormed c.targetMode
  | .jle t => t.wellFormed c.targetMode
  | .jge t => t.wellFormed c.targetMode
  | .nop => true
  | .hlt => true
  | .ret => true
  | .iret => true
  | .int => true
  | .push _ => true
  | .pop _ => true
  | .prn _ => true
  | .pra _ => true
  | .inc _ => true
  | .dec _ => true
  | .not _ => true
  | .ldi _ _ => true
  | .ld _ _ => true
  | .st _ _ => true
  | .add _ _ => true
  | .sub _ _ => true
  | .mul _ _ => true
  | .div _ _ => true
  | .mod _ _ => true
  | .cmp _ _ => true
  | .and _ _ => true
  | .or _ _ => true
  | .xor _ _ => true
  | .shl _ _ => true
  | .shr _ _ => true

end Sys2Proof
end

