-- ==== Sys2Proof/Decode.lean ====
section
/-! DEFINITION. The decoder (40_execution_cycle R72 to R76, 30_encoding R50 to R62): total on any bytes, rejecting by
name, and after it the encoder. The bytes are those from the opcode's address upward, as many as can be fetched. -/

namespace Sys2Proof

/-! ## Opcode byte fields (30_encoding R51) -/

/-- `cnt` = opcode[7:6], the operand count (30_encoding R51, R52). -/
def opcodeCnt (op : Byte) : Nat := op.toNat / 64

/-- `alu` = opcode[5]: the instruction is an ALU operation. Descriptive: dispatch never reads it (30_encoding R51, R53). -/
def opcodeAlu (op : Byte) : Bool := op.getLsbD 5

/-- `spc` = opcode[4], informative (30_encoding R51). -/
def opcodeSpc (op : Byte) : Bool := op.getLsbD 4

/-- `id` = opcode[3:0], informative (30_encoding R51). -/
def opcodeId (op : Byte) : Nat := op.toNat % 16

/-! ## The decoder -/

/-- Why bytes are no instruction that can be executed. -/
inductive Reject where
  /-- the opcode byte is none of the 34 of 30_encoding R56 (R57); raised as UnknownInstruction by the step -/
  | unknownOpcode (op : Byte)
  /-- a byte the instruction needs lies beyond the bytes that can be fetched (40_execution_cycle R75); raised as
  FetchOutOfRange(operand) by the step -/
  | truncated
  /-- a register-index operand byte is 8 to 255 under REG_INDEX_POLICY = fault (30_encoding R55); raised as
  InvalidRegister by the step -/
  | invalidRegister (op operand : Byte)
  deriving DecidableEq, Repr

/-- The register an operand byte of kind register index names (30_encoding R55). -/
def regIndex (p : RegIndexPolicy) (v : Byte) : Option Reg :=
  match p with
  | .fault => if h : v.toNat < 8 then some ⟨v.toNat, h⟩ else none
  | .mask => some ⟨v.toNat % 8, Nat.mod_lt _ (by decide)⟩

/-- The target operand of a jump or CALL (44_control_flow R140): under `reg` a register index, checked; under `imm` an
address, never checked. -/
def targetOperand (c : Config) (v : Byte) : Option Target :=
  match c.targetMode with
  | .reg => (regIndex c.regIndex v).map .reg
  | .imm => some (.imm v)

/-- Format R: opcode, register (30_encoding R50). -/
def decodeR (c : Config) (op : Byte) (mk : Reg → Instr) : List Byte → Except Reject Instr
  | va :: _ =>
    match regIndex c.regIndex va with
    | some a => .ok (mk a)
    | none => .error (.invalidRegister op va)
  | [] => .error .truncated

/-- Format T: opcode, target operand (30_encoding R50). -/
def decodeT (c : Config) (op : Byte) (mk : Target → Instr) : List Byte → Except Reject Instr
  | va :: _ =>
    match targetOperand c va with
    | some t => .ok (mk t)
    | none => .error (.invalidRegister op va)
  | [] => .error .truncated

/-- Format RR: opcode, register, register. Both bytes are fetched before either is checked, and the first bad operand
is the one reported (40_execution_cycle R75, R76). -/
def decodeRR (c : Config) (op : Byte) (mk : Reg → Reg → Instr) : List Byte → Except Reject Instr
  | va :: vb :: _ =>
    match regIndex c.regIndex va with
    | none => .error (.invalidRegister op va)
    | some a =>
      match regIndex c.regIndex vb with
      | none => .error (.invalidRegister op vb)
      | some b => .ok (mk a b)
  | _ => .error .truncated

/-- Format RI: opcode, register, immediate. The immediate is the byte itself (30_encoding R62). -/
def decodeRI (c : Config) (op : Byte) (mk : Reg → Byte → Instr) : List Byte → Except Reject Instr
  | va :: vb :: _ =>
    match regIndex c.regIndex va with
    | none => .error (.invalidRegister op va)
    | some a => .ok (mk a vb)
  | _ => .error .truncated

/-- The dispatch lookup on all eight bits of the opcode byte and the operand decoding of the row it names
(30_encoding R53, R56; 40_execution_cycle R73 to R76). INT and IRET need no operand: their rule raises
UnknownInstruction with no operand fetched (45_system R162, R163). -/
def decodeOp (c : Config) (op : Byte) (args : List Byte) : Except Reject Instr :=
  match op with
  | 0x00#8 => .ok .nop
  | 0x01#8 => .ok .hlt
  | 0x11#8 => .ok .ret
  | 0x13#8 => .ok .iret
  | 0x45#8 => decodeR c op .push args
  | 0x46#8 => decodeR c op .pop args
  | 0x47#8 => decodeR c op .prn args
  | 0x48#8 => decodeR c op .pra args
  | 0x50#8 => decodeT c op .call args
  | 0x52#8 => .ok .int
  | 0x54#8 => decodeT c op .jmp args
  | 0x55#8 => decodeT c op .jeq args
  | 0x56#8 => decodeT c op .jne args
  | 0x57#8 => decodeT c op .jgt args
  | 0x58#8 => decodeT c op .jlt args
  | 0x59#8 => decodeT c op .jle args
  | 0x5A#8 => decodeT c op .jge args
  | 0x65#8 => decodeR c op .inc args
  | 0x66#8 => decodeR c op .dec args
  | 0x69#8 => decodeR c op .not args
  | 0x82#8 => decodeRI c op .ldi args
  | 0x83#8 => decodeRR c op .ld args
  | 0x84#8 => decodeRR c op .st args
  | 0xA0#8 => decodeRR c op .add args
  | 0xA1#8 => decodeRR c op .sub args
  | 0xA2#8 => decodeRR c op .mul args
  | 0xA3#8 => decodeRR c op .div args
  | 0xA4#8 => decodeRR c op .mod args
  | 0xA7#8 => decodeRR c op .cmp args
  | 0xA8#8 => decodeRR c op .and args
  | 0xAA#8 => decodeRR c op .or args
  | 0xAB#8 => decodeRR c op .xor args
  | 0xAC#8 => decodeRR c op .shl args
  | 0xAD#8 => decodeRR c op .shr args
  | _ => .error (.unknownOpcode op)

/-- The instruction at the front of a list of bytes: opcode first (30_encoding R50, 20_memory R35). -/
def decode (c : Config) : List Byte → Except Reject Instr
  | op :: args => decodeOp c op args
  | [] => .error .truncated

/-! ## The encoder -/

/-- The opcode byte of an instruction (30_encoding R56). -/
def Instr.opcode : Instr → Byte
  | .nop => 0x00#8
  | .hlt => 0x01#8
  | .ret => 0x11#8
  | .iret => 0x13#8
  | .push _ => 0x45#8
  | .pop _ => 0x46#8
  | .prn _ => 0x47#8
  | .pra _ => 0x48#8
  | .call _ => 0x50#8
  | .int => 0x52#8
  | .jmp _ => 0x54#8
  | .jeq _ => 0x55#8
  | .jne _ => 0x56#8
  | .jgt _ => 0x57#8
  | .jlt _ => 0x58#8
  | .jle _ => 0x59#8
  | .jge _ => 0x5A#8
  | .inc _ => 0x65#8
  | .dec _ => 0x66#8
  | .not _ => 0x69#8
  | .ldi _ _ => 0x82#8
  | .ld _ _ => 0x83#8
  | .st _ _ => 0x84#8
  | .add _ _ => 0xA0#8
  | .sub _ _ => 0xA1#8
  | .mul _ _ => 0xA2#8
  | .div _ _ => 0xA3#8
  | .mod _ _ => 0xA4#8
  | .cmp _ _ => 0xA7#8
  | .and _ _ => 0xA8#8
  | .or _ _ => 0xAA#8
  | .xor _ _ => 0xAB#8
  | .shl _ _ => 0xAC#8
  | .shr _ _ => 0xAD#8

/-- The operand byte of a register (30_encoding R62). -/
def regByte (r : Reg) : Byte := BitVec.ofNat 8 r.val

/-- The operand byte of a target (44_control_flow R140). -/
def Target.byte : Target → Byte
  | .reg r => regByte r
  | .imm v => v

/-- The operand bytes of an instruction, first operand first (30_encoding R50). INT's second byte is never read
(45_system R162); the encoder writes 0 there (log entry 6). -/
def Instr.operandBytes : Instr → List Byte
  | .nop => []
  | .hlt => []
  | .ret => []
  | .iret => []
  | .push a => [regByte a]
  | .pop a => [regByte a]
  | .prn a => [regByte a]
  | .pra a => [regByte a]
  | .call t => [t.byte]
  | .int => [0x00#8]
  | .jmp t => [t.byte]
  | .jeq t => [t.byte]
  | .jne t => [t.byte]
  | .jgt t => [t.byte]
  | .jlt t => [t.byte]
  | .jle t => [t.byte]
  | .jge t => [t.byte]
  | .inc a => [regByte a]
  | .dec a => [regByte a]
  | .not a => [regByte a]
  | .ldi a b => [regByte a, b]
  | .ld a b => [regByte a, regByte b]
  | .st a b => [regByte a, regByte b]
  | .add a b => [regByte a, regByte b]
  | .sub a b => [regByte a, regByte b]
  | .mul a b => [regByte a, regByte b]
  | .div a b => [regByte a, regByte b]
  | .mod a b => [regByte a, regByte b]
  | .cmp a b => [regByte a, regByte b]
  | .and a b => [regByte a, regByte b]
  | .or a b => [regByte a, regByte b]
  | .xor a b => [regByte a, regByte b]
  | .shl a b => [regByte a, regByte b]
  | .shr a b => [regByte a, regByte b]

/-- The bytes of an instruction at ascending addresses (30_encoding R50). -/
def Instr.encode (i : Instr) : List Byte := i.opcode :: i.operandBytes

/-- The number of operand bytes, from the opcode byte alone (30_encoding R52). -/
def Instr.operandCount (i : Instr) : Nat := opcodeCnt i.opcode

/-- The length of an instruction, `1 + cnt` (30_encoding R50). -/
def Instr.length (i : Instr) : Nat := 1 + i.operandCount

/-! ## Walking an image (30_encoding R58) -/

/-- The addresses at which instructions begin in the bytes from `addr` upward, walked by length = 1 + cnt until the
bytes end or an opcode is undefined, whose length is not defined (30_encoding R50, R58). `fuel` bounds the walk: the
number of bytes is enough. -/
def boundaries (c : Config) : (fuel addr : Nat) → List Byte → List Nat
  | 0, _, _ => []
  | _ + 1, _, [] => []
  | fuel + 1, addr, op :: rest =>
    match decodeOp c op rest with
    | .error (.unknownOpcode _) => []
    | _ => addr :: boundaries c fuel (addr + 1 + opcodeCnt op) (rest.drop (opcodeCnt op))

/-! ## A word as spec/opcode_table.json numbers its bits -/

/-- The first three bytes of an instruction whose bits are `w`, `nbits` of them given: bit 0 is the least significant
bit of the first byte, the second byte is bits 15 to 8, and every bit from `nbits` upward is 0. Three is the longest
instruction (30_encoding R50). -/
def bytesOfWord (nbits w : Nat) : List Byte :=
  let v := w % 2 ^ nbits
  [BitVec.ofNat 8 v, BitVec.ofNat 8 (v / 256), BitVec.ofNat 8 (v / 65536)]

/-- What the decoder reads, under the default parameters, from an instruction whose bits are `w`. -/
def decodeTableWord (nbits w : Nat) : Option Instr :=
  match decode Config.defaults (bytesOfWord nbits w) with
  | .ok i => some i
  | .error _ => none

end Sys2Proof
end

