-- ==== Sys2Proof/Machine/State.lean ====
section
/-! DEFINITION. The whole state of the machine as plain data (10_state R25), the termination reports
(60_exceptions R176), the reasons a step can stop, and the state after reset (70_reset_and_hazards R190). -/

namespace Sys2Proof.Machine

open Sys2Proof

/-- The flags register FL: three independent bits (10_state R15). -/
structure Flags where
  /-- E, equal -/
  e : Bool
  /-- G, greater -/
  g : Bool
  /-- L, less -/
  l : Bool
  deriving DecidableEq, Repr

/-- The kind of an output event (10_state R19). -/
inductive EventKind where
  | prn
  | pra
  deriving DecidableEq, Repr

/-- One event of the output stream: which instruction appended it, and the byte (10_state R19). -/
structure Event where
  kind  : EventKind
  value : Byte
  deriving DecidableEq, Repr

/-- The kind of an ALU fault: one value, for DIV and MOD alike (60_exceptions R173). -/
inductive AluFaultKind where
  | divisionByZero
  deriving DecidableEq, Repr

/-- The operation that raised an ALU fault (60_exceptions R173). -/
inductive DivOp where
  | div
  | mod
  deriving DecidableEq, Repr

/-- The stage of a FetchOutOfRange fault (60_exceptions R175). -/
inductive FetchStage where
  | operand
  | successor
  deriving DecidableEq, Repr

/-- The termination report (60_exceptions R170, R176): a clean halt or one of the four faults of the closed list. -/
inductive Report where
  /-- HLT (45_system R161) -/
  | clean
  /-- the byte at `pc` has no handler (R172) -/
  | unknownInstruction (opcode address : Byte)
  /-- DIV or MOD by zero (R173) -/
  | aluFault (kind : AluFaultKind) (op : DivOp) (address : Byte)
  /-- a register-index operand byte is 8 to 255, under REG_INDEX_POLICY = fault (R174) -/
  | invalidRegister (opcode address operand : Byte)
  /-- an operand or successor address exceeds 0xFF, under PC_OVERFLOW_POLICY = fault (R175) -/
  | fetchOutOfRange (stage : FetchStage) (address : Byte)
  deriving DecidableEq, Repr

/-- The run state (10_state R18). -/
inductive RunState where
  | running
  | halted (report : Report)
  deriving DecidableEq, Repr

/-- Why a step has no next state. The machine's own faults are no such reason: the spec gives their whole effect, a
HALTED state that carries the report (60_exceptions R171), and the model takes them as next states. -/
inductive Fault where
  /-- Raised by `step` alone, on a machine that is HALTED: no step is defined there (40_execution_cycle R82, 93 U17:
  stuck). The report stands in it. Safe: the model stops where the hardware does nothing. -/
  | halted (report : Report)
  deriving DecidableEq, Repr

/-- Why an instruction has no meaning in the model. -/
inductive Refusal where
  /-- Raised by an arm of `exec` whose instruction is not modelled; no arm of this model raises it. Safe: the model
  stops where the hardware goes on. -/
  | notModelled (mnemonic : String)
  deriving DecidableEq, Repr

/-- The memory of 256 cells (20_memory R30): the cells that do not hold 0x00, at strictly rising addresses. -/
abbrev Memory := List Host.Cell

/-- What a cell that the list does not name holds: 0x00, the reset content of every cell (20_memory R40). -/
abbrev unlistedByte : Byte := 0x00#8

/-- The canonical form of memory: strictly rising addresses of 0 to 255, and no cell at the unlisted value. -/
abbrev Memory.wf (m : Memory) : Prop :=
  m.Pairwise (fun p q => p.1 < q.1) ∧ ∀ p ∈ m, p.1 < Config.memSize ∧ p.2 ≠ unlistedByte

/-- The complete architectural state (10_state R25), and the parameters the machine was built with (00_scope R3),
which no step changes. -/
structure State where
  /-- the general registers R0 to R7 (10_state R10); R7 is the stack pointer (R17) -/
  regs  : Vector Byte 8
  /-- the program counter (10_state R13) -/
  pc    : Byte
  /-- the flags E, G, L (10_state R15) -/
  flags : Flags
  /-- the run state (10_state R18) -/
  run   : RunState
  /-- the output stream, oldest event first (10_state R19) -/
  out   : List Event
  /-- the memory (20_memory R30) -/
  mem   : Memory
  /-- the parameters of 00_scope R3. Not state of the spec's: fixed before reset (10_state R25; log entry 1) -/
  cfg   : Config
  deriving DecidableEq, Repr

/-- The state after reset under the parameters `c` (70_reset_and_hazards R190; 10_state R21 to R24; 20_memory R40). -/
def State.resetWith (c : Config) : State where
  regs  := #v[0x00#8, 0x00#8, 0x00#8, 0x00#8, 0x00#8, 0x00#8, 0x00#8, Config.spReset]
  pc    := Config.pcReset
  flags := { e := false, g := false, l := false }
  run   := .running
  out   := []
  mem   := []
  cfg   := c

/-- The state after reset, under the default parameters of 00_scope R3. -/
def State.reset : State := State.resetWith Config.defaults

end Sys2Proof.Machine
end

