-- ==== Sys2Proof/Machine/Ops.lean ====
section
/-! DEFINITION. The named operations over registers, memory, the program counter, the run state and the output
stream. Taking a fault is the one operation `raise`; there is no return from a fault (60_exceptions R180), so no
operation leaves HALTED. -/

namespace Sys2Proof.Machine

open Sys2Proof

/-- What a step or a meaning answers. -/
abbrev Answer := Host.Outcome State Fault Refusal

/-! ## General registers (10_state R10 to R12) -/

/-- `x[r]`. -/
def readReg (s : State) (r : Reg) : Byte := s.regs[r]

/-- `x[r] <- v`. No register is hardwired and none is special (10_state R10, R11). -/
def writeReg (s : State) (r : Reg) (v : Byte) : State := { s with regs := s.regs.set r v }

/-- The stack pointer, R7 (10_state R17). -/
def sp (s : State) : Byte := readReg s Config.spIndex

/-! ## Memory (20_memory R30 to R34) -/

/-- The byte in the cell `a`. -/
def memRead : Memory → Nat → Byte
  | [], _ => unlistedByte
  | (k, v) :: rest, a => if k = a then v else memRead rest a

/-- Puts a cell that is not listed into its place in the rising order. -/
def memInsert (a : Nat) (v : Byte) : Memory → Memory
  | [] => [(a, v)]
  | (k, w) :: rest => if a < k then (a, v) :: (k, w) :: rest else (k, w) :: memInsert a v rest

/-- Writes the cell `a`, keeping the canonical form: a cell that comes to hold the unlisted value leaves the list. -/
def memWrite (m : Memory) (a : Nat) (v : Byte) : Memory :=
  let others := m.filter (fun p => p.1 != a)
  if v = unlistedByte then others else memInsert a v others

/-- `MemRead(a, 1)` (20_memory R32). Every 8-bit address is a cell (R30), so no read fails. -/
def readMem (s : State) (a : Byte) : Byte := memRead s.mem a.toNat

/-- `MemWrite(a, 1, v)` (20_memory R33). -/
def writeMem (s : State) (a v : Byte) : State := { s with mem := memWrite s.mem a.toNat v }

/-! ## Output (10_state R19) -/

/-- `emit(k, v)`: appends one event. -/
def emit (k : EventKind) (v : Byte) (s : State) : State := { s with out := s.out ++ [{ kind := k, value := v }] }

/-! ## Program counter and run state (40_execution_cycle R78, R79; 60_exceptions R171) -/

/-- Taking a fault, `raise F`: the whole effect is `run <- HALTED(F)` (60_exceptions R171, R179). -/
def raise (f : Report) (s : State) : State := { s with run := .halted f }

/-- The outcome `halt`: `run <- HALTED(clean)`, the program counter unchanged (40_execution_cycle R78). -/
def haltClean (s : State) : State := { s with run := .halted .clean }

/-- The outcome `jump(t)`: `pc <- t` (40_execution_cycle R78). -/
def jumpTo (t : Byte) (s : State) : State := { s with pc := t }

/-- The outcome `continue` of an instruction with `n` operands: `Advance(a0, n)` (40_execution_cycle R79). Past 0xFF
it wraps, or ends the run with the instruction's effects standing and the program counter unchanged. -/
def advance (n : Nat) (s : State) : State :=
  if s.pc.toNat + 1 + n ≤ 255 then { s with pc := BitVec.ofNat 8 (s.pc.toNat + 1 + n) }
  else
    match s.cfg.pcOverflow with
    | .wrap => { s with pc := BitVec.ofNat 8 (s.pc.toNat + 1 + n) }
    | .fault => raise (.fetchOutOfRange .successor s.pc) s

/-! ## Instruction fetch (40_execution_cycle R72, R75) -/

/-- The address of the byte `k` of the instruction at `a0`, where it can be fetched (40_execution_cycle R75). -/
def fetchAddr (p : PcOverflowPolicy) (a0 : Byte) (k : Nat) : Option Byte :=
  if a0.toNat + k ≤ 255 then some (BitVec.ofNat 8 (a0.toNat + k))
  else
    match p with
    | .wrap => some (BitVec.ofNat 8 (a0.toNat + k))
    | .fault => none

/-- The addresses an instruction at `pc` can take its bytes from: at most three (30_encoding R50), fewer at the top of
memory under PC_OVERFLOW_POLICY = fault. -/
def fetchAddrs (s : State) : List Byte := [0, 1, 2].filterMap (fetchAddr s.cfg.pcOverflow s.pc)

/-- The bytes from the program counter upward. Reading has no side effect (20_memory R32), so fetching three bytes
when the instruction has fewer is the same step. -/
def fetchBytes (s : State) : List Byte := (fetchAddrs s).map (readMem s)

/-- The fault that the step raises when the decoder rejects the bytes at `pc`, by phase: lookup, operand fetch,
operand validation (40_execution_cycle R73, R75, R76; 60_exceptions R172, R174, R175, R177). -/
def rejectReport (a0 : Byte) : Reject → Report
  | .unknownOpcode op => .unknownInstruction op a0
  | .truncated => .fetchOutOfRange .operand a0
  | .invalidRegister op v => .invalidRegister op a0 v

/-! ## Placing bytes -/

/-- Writes bytes at the addresses beside them. -/
def placeBytes : List Byte → List Byte → State → State
  | a :: addrs, v :: vs, s => placeBytes addrs vs (writeMem s a v)
  | _, _, s => s

/-- Writes bytes at rising addresses from `k`, as `load` does (70_reset_and_hazards R192). -/
def storeFrom : Nat → List Byte → Memory → Memory
  | _, [], m => m
  | k, v :: vs, m => storeFrom (k + 1) vs (memWrite m k v)

end Sys2Proof.Machine
end

