-- ==== Sys2Proof/Machine/Flags.lean ====
section
/-! DEFINITION. The flag computation (41_alu R108, the only writer of FL: 10_state R15) and the six conditions over
the flags (44_control_flow R142 to R147). -/

namespace Sys2Proof.Machine

open Sys2Proof

/-- The flags CMP leaves, from the unsigned comparison of its first value with its second (41_alu R108). -/
def compareFlags (x y : Byte) : Flags where
  e := decide (x.toNat = y.toNat)
  g := decide (x.toNat > y.toNat)
  l := decide (x.toNat < y.toNat)

/-- FL <- f. -/
def writeFlags (f : Flags) (s : State) : State := { s with flags := f }

/-- JEQ: E (44_control_flow R142). -/
def condEq (f : Flags) : Bool := f.e

/-- JNE: not E (44_control_flow R143). -/
def condNe (f : Flags) : Bool := !f.e

/-- JGT: G (44_control_flow R144). -/
def condGt (f : Flags) : Bool := f.g

/-- JLT: L (44_control_flow R145). -/
def condLt (f : Flags) : Bool := f.l

/-- JLE: L or E (44_control_flow R146). -/
def condLe (f : Flags) : Bool := f.l || f.e

/-- JGE: G or E (44_control_flow R147). -/
def condGe (f : Flags) : Bool := f.g || f.e

/-- FL as one byte, `0b00000LGE`, where a trace wants one (10_state R16). Informative: no instruction observes it. -/
def flagsByte (f : Flags) : Byte :=
  BitVec.ofNat 8 (4 * f.l.toNat + 2 * f.g.toNat + f.e.toNat)

end Sys2Proof.Machine
end

