-- ==== Sys2Proof/Machine/Operands.lean ====
section
/-! DEFINITION. The operand forms. The addressing modes are three (42_data_movement, header): immediate, which is the
operand itself; register-indirect, whose address is the register's content; and the stack, whose address is R7. The
target of a jump or CALL is `Target(a)` (44_control_flow R140). -/

namespace Sys2Proof.Machine

open Sys2Proof

/-- The effective address of a register-indirect operand: the content of the register, with no displacement and no
modification (42_data_movement, header; R121, R122). -/
def indirectAddr (s : State) (r : Reg) : Byte := readReg s r

/-- `Target(a)`: the content of the register, or the address itself (44_control_flow R140). -/
def targetValue (s : State) : Target → Byte
  | .reg r => readReg s r
  | .imm addr => addr

/-- The first action of PUSH and CALL: the stack pointer goes down by one, modulo 256 (43_stack R130). -/
def decSp (s : State) : State := writeReg s Config.spIndex (sp s - 1#8)

/-- The last action of POP and RET on the stack: the stack pointer goes up by one, modulo 256 (43_stack R130). -/
def incSp (s : State) : State := writeReg s Config.spIndex (sp s + 1#8)

end Sys2Proof.Machine
end

