-- ==== Sys2Proof/Machine/Alu.lean ====
section
/-! DEFINITION. The 14 ALU instructions (41_alu R100 to R116). Both registers are read before the destination is
written (R100), so the same register twice needs no special case (R115). -/

namespace Sys2Proof.Machine

open Sys2Proof

/-! ## The operations on bytes -/

/-- R101: the sum modulo 256. -/
def aluAdd (x y : Byte) : Byte := x + y

/-- R102: the difference modulo 256. -/
def aluSub (x y : Byte) : Byte := x - y

/-- R103: the product modulo 256. -/
def aluMul (x y : Byte) : Byte := x * y

/-- R104: the floor of the unsigned quotient; only asked for a divisor that is not 0. -/
def aluDiv (x y : Byte) : Byte := BitVec.ofNat 8 (x.toNat / y.toNat)

/-- R105: the unsigned remainder; only asked for a divisor that is not 0. -/
def aluMod (x y : Byte) : Byte := BitVec.ofNat 8 (x.toNat % y.toNat)

/-- R106. -/
def aluInc (x : Byte) : Byte := x + 1#8

/-- R107. -/
def aluDec (x : Byte) : Byte := x - 1#8

/-- R109. -/
def aluAnd (x y : Byte) : Byte := x &&& y

/-- R110. -/
def aluOr (x y : Byte) : Byte := x ||| y

/-- R111. -/
def aluXor (x y : Byte) : Byte := x ^^^ y

/-- R112. -/
def aluNot (x : Byte) : Byte := ~~~x

/-- R113: the shift amount is the whole second byte, so 8 or more gives 0. -/
def aluShl (x y : Byte) : Byte := x <<< y.toNat

/-- R114: logical, the shift amount is the whole second byte. -/
def aluShr (x y : Byte) : Byte := x >>> y.toNat

/-! ## The shapes -/

/-- A two-register operation: `x[a] <- f(x[a], x[b])` (R100). -/
def aluBinary (f : Byte → Byte → Byte) (a b : Reg) (s : State) : State :=
  writeReg s a (f (readReg s a) (readReg s b))

/-- A one-register operation: `x[a] <- f(x[a])` (R106, R107, R112). -/
def aluUnary (f : Byte → Byte) (a : Reg) (s : State) : State := writeReg s a (f (readReg s a))

/-- DIV and MOD: a zero divisor raises ALUFault before any write, otherwise the destination is written (R104, R105;
60_exceptions R173). -/
def aluDivide (op : DivOp) (f : Byte → Byte → Byte) (a b : Reg) (s : State) : State :=
  if readReg s b = 0#8 then raise (.aluFault .divisionByZero op s.pc) s
  else advance 2 (aluBinary f a b s)

/-! ## The instructions -/

/-- ADD Ra, Rb (R101). -/
def execAdd (a b : Reg) (s : State) : Answer := .next (advance 2 (aluBinary aluAdd a b s))

/-- SUB Ra, Rb (R102). -/
def execSub (a b : Reg) (s : State) : Answer := .next (advance 2 (aluBinary aluSub a b s))

/-- MUL Ra, Rb (R103). -/
def execMul (a b : Reg) (s : State) : Answer := .next (advance 2 (aluBinary aluMul a b s))

/-- DIV Ra, Rb (R104). -/
def execDiv (a b : Reg) (s : State) : Answer := .next (aluDivide .div aluDiv a b s)

/-- MOD Ra, Rb (R105). -/
def execMod (a b : Reg) (s : State) : Answer := .next (aluDivide .mod aluMod a b s)

/-- INC Ra (R106). -/
def execInc (a : Reg) (s : State) : Answer := .next (advance 1 (aluUnary aluInc a s))

/-- DEC Ra (R107). -/
def execDec (a : Reg) (s : State) : Answer := .next (advance 1 (aluUnary aluDec a s))

/-- CMP Ra, Rb (R108): writes the three flags and no register. -/
def execCmp (a b : Reg) (s : State) : Answer :=
  .next (advance 2 (writeFlags (compareFlags (readReg s a) (readReg s b)) s))

/-- AND Ra, Rb (R109). -/
def execAnd (a b : Reg) (s : State) : Answer := .next (advance 2 (aluBinary aluAnd a b s))

/-- OR Ra, Rb (R110). -/
def execOr (a b : Reg) (s : State) : Answer := .next (advance 2 (aluBinary aluOr a b s))

/-- XOR Ra, Rb (R111). -/
def execXor (a b : Reg) (s : State) : Answer := .next (advance 2 (aluBinary aluXor a b s))

/-- NOT Ra (R112). -/
def execNot (a : Reg) (s : State) : Answer := .next (advance 1 (aluUnary aluNot a s))

/-- SHL Ra, Rb (R113). -/
def execShl (a b : Reg) (s : State) : Answer := .next (advance 2 (aluBinary aluShl a b s))

/-- SHR Ra, Rb (R114). -/
def execShr (a b : Reg) (s : State) : Answer := .next (advance 2 (aluBinary aluShr a b s))

end Sys2Proof.Machine
end

