-- ==== Sys2Proof/Machine/ControlFlow.lean ====
section
/-! DEFINITION. JMP, the six conditional jumps, CALL and RET (44_control_flow R140 to R150). -/

namespace Sys2Proof.Machine

open Sys2Proof

/-- The shared shape of the conditional jumps: jump to the target, or go on with the next instruction. -/
def branchIf (cond : Bool) (t : Target) (s : State) : State :=
  if cond then jumpTo (targetValue s t) s else advance 1 s

/-- JMP (R141). -/
def execJmp (t : Target) (s : State) : Answer := .next (jumpTo (targetValue s t) s)

/-- JEQ (R142). -/
def execJeq (t : Target) (s : State) : Answer := .next (branchIf (condEq s.flags) t s)

/-- JNE (R143). -/
def execJne (t : Target) (s : State) : Answer := .next (branchIf (condNe s.flags) t s)

/-- JGT (R144). -/
def execJgt (t : Target) (s : State) : Answer := .next (branchIf (condGt s.flags) t s)

/-- JLT (R145). -/
def execJlt (t : Target) (s : State) : Answer := .next (branchIf (condLt s.flags) t s)

/-- JLE (R146). -/
def execJle (t : Target) (s : State) : Answer := .next (branchIf (condLe s.flags) t s)

/-- JGE (R147). -/
def execJge (t : Target) (s : State) : Answer := .next (branchIf (condGe s.flags) t s)

/-- CALL (R148): pushes the return address `(a0 + 2) mod 256`, then jumps to the target evaluated after the push. -/
def execCall (t : Target) (s : State) : Answer :=
  let s1 := decSp s
  let s2 := writeMem s1 (sp s1) (s.pc + 2#8)
  .next (jumpTo (targetValue s2 t) s2)

/-- RET (R149): pops the return address into the program counter. -/
def execRet (s : State) : Answer := .next (jumpTo (readMem s (sp s)) (incSp s))

end Sys2Proof.Machine
end

