-- ==== Sys2Proof/Machine/DataMovement.lean ====
section
/-! DEFINITION. LDI, LD, ST, PRN, PRA (42_data_movement R120 to R124). -/

namespace Sys2Proof.Machine

open Sys2Proof

/-- LDI Ra, imm8 (R120). -/
def execLdi (a : Reg) (b : Byte) (s : State) : Answer := .next (advance 2 (writeReg s a b))

/-- LD Ra, Rb (R121): the address is in the second register. -/
def execLd (a b : Reg) (s : State) : Answer :=
  .next (advance 2 (writeReg s a (readMem s (indirectAddr s b))))

/-- ST Ra, Rb (R122): the address is in the first register. -/
def execSt (a b : Reg) (s : State) : Answer :=
  .next (advance 2 (writeMem s (indirectAddr s a) (readReg s b)))

/-- PRN Ra (R123). -/
def execPrn (a : Reg) (s : State) : Answer := .next (advance 1 (emit .prn (readReg s a) s))

/-- PRA Ra (R124). -/
def execPra (a : Reg) (s : State) : Answer := .next (advance 1 (emit .pra (readReg s a) s))

end Sys2Proof.Machine
end

