-- ==== Sys2Proof/Machine/Stack.lean ====
section
/-! DEFINITION. PUSH and POP (43_stack R130 to R132). The actions take effect in the stated order and a later one sees
an earlier one's result, which settles the forms whose operand is R7. -/

namespace Sys2Proof.Machine

open Sys2Proof

/-- PUSH Ra (R131): the stack pointer goes down, then the register is read and stored at the new stack pointer. -/
def execPush (a : Reg) (s : State) : Answer :=
  let s1 := decSp s
  .next (advance 1 (writeMem s1 (sp s1) (readReg s1 a)))

/-- POP Ra (R132): the register receives the byte at the stack pointer, then the stack pointer goes up. -/
def execPop (a : Reg) (s : State) : Answer :=
  .next (advance 1 (incSp (writeReg s a (readMem s (sp s)))))

end Sys2Proof.Machine
end

