-- ==== Sys2Proof/Machine/System.lean ====
section
/-! DEFINITION. NOP, HLT, and INT and IRET, which have no handler and raise UnknownInstruction
(45_system R160 to R163). -/

namespace Sys2Proof.Machine

open Sys2Proof

/-- NOP (R160). -/
def execNop (s : State) : Answer := .next (advance 0 s)

/-- HLT (R161). -/
def execHlt (s : State) : Answer := .next (haltClean s)

/-- INT (R162): the lookup finds no handler for 0x52. -/
def execInt (s : State) : Answer := .next (raise (.unknownInstruction 0x52#8 s.pc) s)

/-- IRET (R163): the lookup finds no handler for 0x13. -/
def execIret (s : State) : Answer := .next (raise (.unknownInstruction 0x13#8 s.pc) s)

end Sys2Proof.Machine
end

