-- ==== Sys2Proof/Machine/Step.lean ====
section
/-! DEFINITION. The step (40_execution_cycle R80): defined when RUNNING (R71), stuck when HALTED (R82, 93 U17). -/

namespace Sys2Proof.Machine

open Sys2Proof

/-- One instruction: fetch, decode, then execute or raise the decoder's fault (40_execution_cycle R80). -/
def step (s : State) : Host.Outcome State Fault Refusal :=
  match s.run with
  | .halted r => .fault (.halted r)
  | .running =>
    match decode s.cfg (fetchBytes s) with
    | .ok i => exec i s
    | .error e => .next (raise (rejectReport s.pc e) s)

/-- `s` with the instruction whose bits are `w` stored where the next step fetches. -/
def State.withFetchWord (s : State) (nbits w : Nat) : State :=
  placeBytes (fetchAddrs s) (bytesOfWord nbits w) s

end Sys2Proof.Machine
end

