-- ==== Sys2Proof/Machine/HostInterface.lean ====
section
/-! DEFINITION. What the host can do to the machine outside a step (70_reset_and_hazards R190 to R194, R200): reset,
load, run, read the report; and the default rendering of output events and of listings, which are outside the core. -/

namespace Sys2Proof.Machine

open Sys2Proof

/-! ## Reset, load, run -/

/-- reset (70_reset_and_hazards R190): every piece of state at its reset value, the parameters as they are. -/
def hostReset (s : State) : State := State.resetWith s.cfg

/-- What `load` answers (70_reset_and_hazards R192, R193). -/
inductive LoadAnswer where
  | ok
  /-- the image is longer than 256 bytes; nothing was written -/
  | programTooLarge
  deriving DecidableEq, Repr

/-- `load(image)` (70_reset_and_hazards R192, R193). The host calls it outside a run only (R200; log entry 4). -/
def loadImage (image : List Byte) (s : State) : LoadAnswer × State :=
  if image.length ≤ Config.memSize then (.ok, { s with mem := storeFrom Config.loadBase image s.mem })
  else (.programTooLarge, s)

/-- `run()` for at most `fuel` steps: the step is repeated while the machine is RUNNING (40_execution_cycle R81). The
hardware has no bound; the fuel is the model's (log entry 10). -/
def runFor : (fuel : Nat) → State → State
  | 0, s => s
  | fuel + 1, s =>
    match step s with
    | .next t => runFor fuel t
    | .fault _ => s
    | .refused _ => s

/-- The termination report of a machine that has halted (60_exceptions R176). -/
def State.report (s : State) : Option Report :=
  match s.run with
  | .running => none
  | .halted r => some r

/-! ## Rendering of output events (92 D17; outside the core) -/

/-- The text of one event: the decimal numeral for PRN, the character of that code point for PRA. The sink writes one
line per event; which line end it writes is its own. -/
def renderEvent (ev : Event) : String :=
  match ev.kind with
  | .prn => toString ev.value.toNat
  | .pra => String.singleton (Char.ofNat ev.value.toNat)

/-! ## Listings (30_encoding R60) -/

/-- A register operand, `Rk`. -/
def listReg (r : Reg) : String := "R" ++ toString r.val

/-- A target operand: `Rk`, or a number under TARGET_MODE = imm. -/
def listTarget : Target → String
  | .reg r => listReg r
  | .imm v => toString v.toNat

/-- An instruction as the spec writes it in a listing (30_encoding R60). INT's operand is not part of the decoded
instruction (45_system R162), so the mnemonic stands alone. -/
def listInstr : Instr → String
  | .nop => "NOP"
  | .hlt => "HLT"
  | .ret => "RET"
  | .iret => "IRET"
  | .push a => "PUSH " ++ listReg a
  | .pop a => "POP " ++ listReg a
  | .prn a => "PRN " ++ listReg a
  | .pra a => "PRA " ++ listReg a
  | .call t => "CALL " ++ listTarget t
  | .int => "INT"
  | .jmp t => "JMP " ++ listTarget t
  | .jeq t => "JEQ " ++ listTarget t
  | .jne t => "JNE " ++ listTarget t
  | .jgt t => "JGT " ++ listTarget t
  | .jlt t => "JLT " ++ listTarget t
  | .jle t => "JLE " ++ listTarget t
  | .jge t => "JGE " ++ listTarget t
  | .inc a => "INC " ++ listReg a
  | .dec a => "DEC " ++ listReg a
  | .not a => "NOT " ++ listReg a
  | .ldi a b => "LDI " ++ listReg a ++ ", " ++ toString b.toNat
  | .ld a b => "LD " ++ listReg a ++ ", " ++ listReg b
  | .st a b => "ST " ++ listReg a ++ ", " ++ listReg b
  | .add a b => "ADD " ++ listReg a ++ ", " ++ listReg b
  | .sub a b => "SUB " ++ listReg a ++ ", " ++ listReg b
  | .mul a b => "MUL " ++ listReg a ++ ", " ++ listReg b
  | .div a b => "DIV " ++ listReg a ++ ", " ++ listReg b
  | .mod a b => "MOD " ++ listReg a ++ ", " ++ listReg b
  | .cmp a b => "CMP " ++ listReg a ++ ", " ++ listReg b
  | .and a b => "AND " ++ listReg a ++ ", " ++ listReg b
  | .or a b => "OR " ++ listReg a ++ ", " ++ listReg b
  | .xor a b => "XOR " ++ listReg a ++ ", " ++ listReg b
  | .shl a b => "SHL " ++ listReg a ++ ", " ++ listReg b
  | .shr a b => "SHR " ++ listReg a ++ ", " ++ listReg b

end Sys2Proof.Machine
end

