-- ==== Sys2Proof/Safety.lean ====
section
/-! DEFINITION. The terms the claims are made in: what an instruction leaves alone, which instructions write what
(10_state R11, R15, R19; 20_memory R31), the opcode bytes by format (30_encoding R50, R56), and the invariants. -/

namespace Sys2Proof.Safety

open Sys2Proof Sys2Proof.Machine

/-! ## Frames -/

/-- The registers outside the list hold what they held. -/
def SameRegsBut (rs : List Reg) (s t : State) : Prop := ∀ r : Reg, r ∉ rs → readReg t r = readReg s r

/-- The cells outside the list hold what they held. -/
def SameMemBut (cells : List Byte) (s t : State) : Prop := ∀ a : Byte, a ∉ cells → readMem t a = readMem s a

/-- The run state and the parameters are what they were. -/
def SameRun (s t : State) : Prop := t.run = s.run ∧ t.cfg = s.cfg

/-- Nothing changes but the listed registers and the program counter. -/
def OnlyRegsChange (rs : List Reg) (s t : State) : Prop :=
  SameRegsBut rs s t ∧ SameMemBut [] s t ∧ t.flags = s.flags ∧ t.out = s.out ∧ SameRun s t

/-- Nothing changes but the listed registers, the listed cells and the program counter. -/
def OnlyRegsAndCellsChange (rs : List Reg) (cells : List Byte) (s t : State) : Prop :=
  SameRegsBut rs s t ∧ SameMemBut cells s t ∧ t.flags = s.flags ∧ t.out = s.out ∧ SameRun s t

/-- An instruction of `len` bytes at the program counter has a successor in memory (40_execution_cycle R79). -/
def Fits (len : Nat) (s : State) : Prop := s.pc.toNat + len ≤ 255

/-- The program counter went on by `len` bytes. -/
def ProgressedBy (len : Nat) (s t : State) : Prop := t.pc.toNat = s.pc.toNat + len

/-! ## Opcode bytes by format (30_encoding R50, R56) -/

/-- Format N with a handler: NOP, HLT, RET. -/
def opcodesN : List Byte := [0x00#8, 0x01#8, 0x11#8]

/-- Format R with a handler: PUSH, POP, PRN, PRA, INC, DEC, NOT. -/
def opcodesR : List Byte := [0x45#8, 0x46#8, 0x47#8, 0x48#8, 0x65#8, 0x66#8, 0x69#8]

/-- Format T: CALL, JMP, JEQ, JNE, JGT, JLT, JLE, JGE. -/
def opcodesT : List Byte := [0x50#8, 0x54#8, 0x55#8, 0x56#8, 0x57#8, 0x58#8, 0x59#8, 0x5A#8]

/-- Format RI: LDI. -/
def opcodesRI : List Byte := [0x82#8]

/-- Format RR: LD, ST, ADD, SUB, MUL, DIV, MOD, CMP, AND, OR, XOR, SHL, SHR. -/
def opcodesRR : List Byte :=
  [0x83#8, 0x84#8, 0xA0#8, 0xA1#8, 0xA2#8, 0xA3#8, 0xA4#8, 0xA7#8, 0xA8#8, 0xAA#8, 0xAB#8, 0xAC#8, 0xAD#8]

/-- The 32 opcode bytes that have a handler (40_execution_cycle R73). -/
def handlerOpcodes : List Byte := opcodesN ++ opcodesR ++ opcodesT ++ opcodesRI ++ opcodesRR

/-- The 34 opcode bytes of 30_encoding R56: those with a handler, and INT and IRET. -/
def tableOpcodes : List Byte := handlerOpcodes ++ [0x52#8, 0x13#8]

/-! ## What an instruction writes -/

/-- The registers an instruction may write (10_state R11, R17). -/
def writtenRegs : Instr → List Reg
  | .ldi a _ => [a]
  | .ld a _ => [a]
  | .pop a => [a, 7]
  | .add a _ => [a]
  | .sub a _ => [a]
  | .mul a _ => [a]
  | .div a _ => [a]
  | .mod a _ => [a]
  | .inc a => [a]
  | .dec a => [a]
  | .and a _ => [a]
  | .or a _ => [a]
  | .xor a _ => [a]
  | .not a => [a]
  | .shl a _ => [a]
  | .shr a _ => [a]
  | .push _ => [7]
  | .call _ => [7]
  | .ret => [7]
  | .nop => []
  | .hlt => []
  | .iret => []
  | .int => []
  | .prn _ => []
  | .pra _ => []
  | .jmp _ => []
  | .jeq _ => []
  | .jne _ => []
  | .jgt _ => []
  | .jlt _ => []
  | .jle _ => []
  | .jge _ => []
  | .st _ _ => []
  | .cmp _ _ => []

/-- The cells an instruction may write: ST at the address in its first register, PUSH and CALL at the new stack
pointer, and no other instruction any (20_memory R31). -/
def writtenCells (s : State) : Instr → List Byte
  | .st a _ => [indirectAddr s a]
  | .push _ => [sp (decSp s)]
  | .call _ => [sp (decSp s)]
  | .nop => []
  | .hlt => []
  | .ret => []
  | .iret => []
  | .pop _ => []
  | .prn _ => []
  | .pra _ => []
  | .int => []
  | .jmp _ => []
  | .jeq _ => []
  | .jne _ => []
  | .jgt _ => []
  | .jlt _ => []
  | .jle _ => []
  | .jge _ => []
  | .inc _ => []
  | .dec _ => []
  | .not _ => []
  | .ldi _ _ => []
  | .ld _ _ => []
  | .add _ _ => []
  | .sub _ _ => []
  | .mul _ _ => []
  | .div _ _ => []
  | .mod _ _ => []
  | .cmp _ _ => []
  | .and _ _ => []
  | .or _ _ => []
  | .xor _ _ => []
  | .shl _ _ => []
  | .shr _ _ => []

/-- The outcome of the instruction in this state is `continue` (the table of 40_execution_cycle R78). -/
def continues (s : State) : Instr → Bool
  | .nop => true
  | .hlt => false
  | .ret => false
  | .iret => false
  | .push _ => true
  | .pop _ => true
  | .prn _ => true
  | .pra _ => true
  | .call _ => false
  | .int => false
  | .jmp _ => false
  | .jeq _ => !s.flags.e
  | .jne _ => s.flags.e
  | .jgt _ => !s.flags.g
  | .jlt _ => !s.flags.l
  | .jle _ => !(s.flags.l || s.flags.e)
  | .jge _ => !(s.flags.g || s.flags.e)
  | .inc _ => true
  | .dec _ => true
  | .not _ => true
  | .ldi _ _ => true
  | .ld _ _ => true
  | .st _ _ => true
  | .add _ _ => true
  | .sub _ _ => true
  | .mul _ _ => true
  | .div _ b => readReg s b != 0#8
  | .mod _ b => readReg s b != 0#8
  | .cmp _ _ => true
  | .and _ _ => true
  | .or _ _ => true
  | .xor _ _ => true
  | .shl _ _ => true
  | .shr _ _ => true

/-! ## Invariants -/

/-- At most one flag is set: "no other combination of flags is reachable" (44_control_flow, truth table). -/
def FlagsExclusive (s : State) : Prop :=
  ¬(s.flags.e = true ∧ s.flags.g = true) ∧ ¬(s.flags.e = true ∧ s.flags.l = true) ∧
    ¬(s.flags.g = true ∧ s.flags.l = true)

/-- The report of a halted machine agrees with the machine: it names the program counter as its address, the byte
there is the opcode that the report's kind needs, and a fault that exists under one value of a parameter only is
reported under that value only (60_exceptions R170 to R176). -/
def ReportFits (s : State) : Prop :=
  match s.run with
  | .running => True
  | .halted .clean => readMem s s.pc = 0x01#8
  | .halted (.unknownInstruction op a) => a = s.pc ∧ readMem s s.pc = op ∧ op ∉ handlerOpcodes
  | .halted (.aluFault _ .div a) => a = s.pc ∧ readMem s s.pc = 0xA3#8
  | .halted (.aluFault _ .mod a) => a = s.pc ∧ readMem s s.pc = 0xA4#8
  | .halted (.invalidRegister op a v) => a = s.pc ∧ readMem s s.pc = op ∧ 8 ≤ v.toNat ∧ s.cfg.regIndex = .fault
  | .halted (.fetchOutOfRange _ a) => a = s.pc ∧ s.cfg.pcOverflow = .fault

/-- A run is safe where it stands when no fault has ended it: it is RUNNING or it halted clean (60_exceptions R176). -/
def NotFaulted (s : State) : Prop := s.run = .running ∨ s.run = .halted .clean

end Sys2Proof.Safety
end

