-- ==== Sys2Proof/Certificates/Slice0/Obligations.lean ====
section
/-! DEFINITION. The statements for the provers. Each docstring names the rule of spec/ it comes from; where the rule
is marked by the spec as its own decision or derivation the statement is 'derived' and its docstring names the mark. -/

open Sys2Proof Sys2Proof.Machine Sys2Proof.Safety

/-! ## Reset and load -/

/-- 10_state section 8 and 70_reset_and_hazards section 1: what reset leaves, under every setting of the parameters.
R7 and memory are the source's values; pc, the flags and R0, R2 to R6 rest on the spec's decisions D8, D9, D24 (log
entry 9); the parameters of `State.reset` are the model's choice (log entry 2). -/
def Obligations.ResetPutsEveryPieceAtItsValue : Prop :=
  (∀ c : Config,
    (∀ r : Reg, r ≠ 7 → readReg (State.resetWith c) r = 0x00#8) ∧
    readReg (State.resetWith c) 7 = 0xF4#8 ∧
    (State.resetWith c).pc = 0x00#8 ∧
    (State.resetWith c).flags.e = false ∧ (State.resetWith c).flags.g = false ∧
    (State.resetWith c).flags.l = false ∧
    (State.resetWith c).run = .running ∧ (State.resetWith c).out = [] ∧
    (∀ a : Byte, readMem (State.resetWith c) a = 0x00#8) ∧ (State.resetWith c).cfg = c) ∧
  State.reset = State.resetWith { targetMode := .reg, regIndex := .fault, pcOverflow := .fault } ∧
  (∀ s : State, hostReset s = State.resetWith s.cfg)

/-- 20_memory section 4 and 70_reset_and_hazards section 2: every cell is 0x00 after reset, load overwrites the first
cells with the image and leaves the rest, and 0x00 is NOP. That load touches only memory, so that registers, pc, flags,
output and run state stay, is the spec's decision D20 (log entry 9). -/
def Obligations.LoadOverwritesCellsFromZero : Prop :=
  (∀ (c : Config) (a : Byte), readMem (State.resetWith c) a = 0x00#8) ∧
  (∀ (image : List Byte) (s : State), image.length ≤ 256 →
    (loadImage image s).1 = .ok ∧
    (∀ a : Byte, readMem (loadImage image s).2 a =
      if a.toNat < image.length then image.getD a.toNat 0x00#8 else readMem s a) ∧
    (loadImage image s).2.regs = s.regs ∧ (loadImage image s).2.pc = s.pc ∧
    (loadImage image s).2.flags = s.flags ∧ (loadImage image s).2.out = s.out ∧
    SameRun s (loadImage image s).2) ∧
  (∀ (c : Config) (rest : List Byte), decode c (0x00#8 :: rest) = .ok .nop)

/-- 70_reset_and_hazards R193: an image longer than 256 bytes is refused whole, and the machine is as before. -/
def Obligations.OversizeImageIsRefusedWhole : Prop :=
  ∀ (image : List Byte) (s : State), image.length > 256 → loadImage image s = (.programTooLarge, s)

/-! ## Registers and memory -/

/-- 20_memory R33: a write sets its cell to the value modulo 256 and changes no other cell, and nothing but memory;
the one value a rule offers that exceeds 255, CALL's return address at 0xFE, is stored as 0. -/
def Obligations.MemoryWriteChangesOneCell : Prop :=
  ∀ (s : State) (a v : Byte),
    (∀ b : Byte, readMem (writeMem s a v) b = if b = a then v else readMem s b) ∧
    (writeMem s a v).regs = s.regs ∧ (writeMem s a v).pc = s.pc ∧ (writeMem s a v).flags = s.flags ∧
    (writeMem s a v).out = s.out ∧ SameRun s (writeMem s a v) ∧
    (∀ n : Nat, (readMem (writeMem s a (BitVec.ofNat 8 n)) a).toNat = n % 256) ∧
    (∀ (tg : Target) (t : State), s.pc = 0xFE#8 → exec (.call tg) s = .next t → readMem t (readReg t 7) = 0x00#8)

/-- 10_state R10: each of the eight registers can be written and read back, none is an alias of another, and SP is a
name of R7. -/
def Obligations.EveryRegisterReadsBackWhatIsWritten : Prop :=
  (∀ (s : State) (r q : Reg) (v : Byte), readReg (writeReg s r v) q = if q = r then v else readReg s q) ∧
  (∀ s : State, sp s = readReg s 7)

/-! ## The step -/

/-- 40_execution_cycle section 2: a RUNNING machine executes exactly the instruction its bytes decode to, with
nothing added around `exec`. -/
def Obligations.StepRunsTheDecodedInstruction : Prop :=
  ∀ (s : State) (i : Instr), s.run = .running → decode s.cfg (fetchBytes s) = .ok i → step s = exec i s

/-- 40_execution_cycle section 2 (D7): the bytes an instruction is decoded from are those at the program counter and
the two addresses after it; past 0xFF there are none under `fault`, and they wrap under `wrap`. -/
def Obligations.FetchTakesTheBytesFromPcUpward : Prop :=
  ∀ s : State,
    (s.pc.toNat + 2 ≤ 255 → fetchBytes s = [readMem s s.pc, readMem s (s.pc + 1#8), readMem s (s.pc + 2#8)]) ∧
    (s.cfg.pcOverflow = .fault → s.pc = 0xFE#8 → fetchBytes s = [readMem s 0xFE#8, readMem s 0xFF#8]) ∧
    (s.cfg.pcOverflow = .fault → s.pc = 0xFF#8 → fetchBytes s = [readMem s 0xFF#8]) ∧
    (s.cfg.pcOverflow = .wrap → fetchBytes s = [readMem s s.pc, readMem s (s.pc + 1#8), readMem s (s.pc + 2#8)])

/-- 40_execution_cycle section 1 (D16): HALTED is absorbing. That the step there answers a named fault is the model's
choice (log entry 3). -/
def Obligations.HaltedMachineHasNoStep : Prop :=
  ∀ (s : State) (r : Report), s.run = .halted r → step s = .fault (.halted r)

/-- 70_reset_and_hazards section 6 (D22): a RUNNING machine always has a next step. -/
def Obligations.RunningMachineAlwaysHasANextState : Prop :=
  ∀ s : State, s.run = .running → ∃ t : State, step s = .next t

/-- 40_execution_cycle section 1: `run()` repeats the step while RUNNING and stays where it halted. The fuel is the
model's (log entry 10). -/
def Obligations.RunRepeatsTheStepUntilHalted : Prop :=
  (∀ (n : Nat) (s t : State), step s = .next t → runFor (n + 1) s = runFor n t) ∧
  (∀ (n : Nat) (s : State) (r : Report), s.run = .halted r → runFor n s = s) ∧
  (∀ (n m : Nat) (s : State) (r : Report), (runFor n s).report = some r → runFor (n + m) s = runFor n s)

/-! ## Faults of fetching and decoding -/

/-- 60_exceptions section 1 and 40_execution_cycle section 2: a byte with no handler ends the run, wherever it stands
and whatever follows it. That nothing else changes and the program counter stays is the spec's decision D16, and that
0x52 and 0x13 are among the bytes with no handler is D14 (log entry 9). -/
def Obligations.OpcodeWithoutHandlerEndsTheRun : Prop :=
  ∀ s : State, s.run = .running → readMem s s.pc ∉ handlerOpcodes →
    step s = .next { s with run := .halted (.unknownInstruction (readMem s s.pc) s.pc) }

/-- 40_execution_cycle section 2 and 60_exceptions section 1 (D7, D23): an operand beyond 0xFF faults before any
effect and before the operands are checked. -/
def Obligations.OperandBeyondTopOfMemoryFaults : Prop :=
  ∀ s : State, s.run = .running → s.cfg.pcOverflow = .fault → readMem s s.pc ∈ handlerOpcodes →
    s.pc.toNat + (readMem s s.pc).toNat / 64 > 255 →
    step s = .next { s with run := .halted (.fetchOutOfRange .operand s.pc) }

/-- 40_execution_cycle section 2 and 60_exceptions section 1 (D6, D23): a register-index operand of 8 to 255 faults
before any effect, and the first bad operand is the one reported. -/
def Obligations.RegisterOperandAboveSevenFaults : Prop :=
  ∀ (s : State) (op v : Byte) (rest : List Byte), s.run = .running → s.cfg.regIndex = .fault →
    (op ∈ opcodesR → 8 ≤ v.toNat → fetchBytes s = op :: v :: rest →
      step s = .next { s with run := .halted (.invalidRegister op s.pc v) }) ∧
    (op ∈ opcodesT → s.cfg.targetMode = .reg → 8 ≤ v.toNat → fetchBytes s = op :: v :: rest →
      step s = .next { s with run := .halted (.invalidRegister op s.pc v) }) ∧
    (∀ w : Byte, op ∈ opcodesRI ++ opcodesRR → 8 ≤ v.toNat → fetchBytes s = op :: v :: w :: rest →
      step s = .next { s with run := .halted (.invalidRegister op s.pc v) }) ∧
    (∀ w : Byte, op ∈ opcodesRR → v.toNat < 8 → 8 ≤ w.toNat → fetchBytes s = op :: v :: w :: rest →
      step s = .next { s with run := .halted (.invalidRegister op s.pc w) })

/-- 30_encoding section 2 (D6): under `mask` no register operand is rejected, and only its low three bits count. -/
def Obligations.MaskPolicyUsesTheLowThreeBits : Prop :=
  ∀ (c : Config) (op v w : Byte) (rest : List Byte), c.regIndex = .mask →
    (op ∈ opcodesRR → decode c (op :: v :: w :: rest) = decode c (op :: (v &&& 7#8) :: (w &&& 7#8) :: rest) ∧
      ∃ i, decode c (op :: v :: w :: rest) = .ok i) ∧
    (op ∈ opcodesRI → decode c (op :: v :: w :: rest) = decode c (op :: (v &&& 7#8) :: w :: rest) ∧
      ∃ i, decode c (op :: v :: w :: rest) = .ok i) ∧
    (op ∈ opcodesR → decode c (op :: v :: rest) = decode c (op :: (v &&& 7#8) :: rest) ∧
      ∃ i, decode c (op :: v :: rest) = .ok i) ∧
    (op ∈ opcodesT → c.targetMode = .reg → decode c (op :: v :: rest) = decode c (op :: (v &&& 7#8) :: rest) ∧
      ∃ i, decode c (op :: v :: rest) = .ok i)

/-! ## Encoding -/

/-- 30_encoding section 4 (D1): the undefined opcode bytes are exactly those outside the table of 34. -/
def Obligations.UndefinedOpcodesAreThoseOutsideTheTable : Prop :=
  tableOpcodes.length = 34 ∧
  ∀ (c : Config) (op : Byte) (rest : List Byte),
    decode c (op :: rest) = .error (.unknownOpcode op) ↔ op ∉ tableOpcodes

/-- 30_encoding R52: bits 7:6 of a defined opcode give its number of operand bytes, never 3; a byte with both bits set
is undefined; and the bytes after an undefined opcode are never looked at. -/
def Obligations.CountFieldGivesTheOperandCount : Prop :=
  (∀ i : Instr, i.operandBytes.length = i.opcode.toNat / 64 ∧ i.opcode.toNat / 64 ≤ 2) ∧
  (∀ (c : Config) (op : Byte) (rest : List Byte), op.toNat / 64 = 3 →
    decode c (op :: rest) = .error (.unknownOpcode op)) ∧
  (∀ (c : Config) (op : Byte) (rest rest' : List Byte), decode c (op :: rest) = .error (.unknownOpcode op) →
    decode c (op :: rest') = .error (.unknownOpcode op))

/-- 30_encoding sections 1 to 3 and 44_control_flow section 1 (D1, D3, D5): decoding an encoded instruction gives it
back, for every instruction, every operand and every setting of the parameters. -/
def Obligations.DecodingAnEncodedInstructionGivesItBack : Prop :=
  ∀ (c : Config) (i : Instr) (rest : List Byte), i.wellFormed c = true → decode c (i.encode ++ rest) = .ok i

/-- 40_execution_cycle section 2 and 44_control_flow section 1 (D5): the decoder gives only instructions the hardware
has under its parameters. -/
def Obligations.DecodedInstructionIsWellFormed : Prop :=
  ∀ (c : Config) (bytes : List Byte) (i : Instr), decode c bytes = .ok i → i.wellFormed c = true

/-- 30_encoding sections 1 and 2 (D6): under REG_INDEX_POLICY = fault a word has one meaning and a meaning one word:
the bytes decoded from are the instruction's encoding. INT alone leaves its operand byte open (D14; log entry 6). -/
def Obligations.DecodedBytesAreTheEncoding : Prop :=
  ∀ (c : Config) (bytes : List Byte) (i : Instr), c.regIndex = .fault → decode c bytes = .ok i →
    if i = .int then ∃ rest, bytes = 0x52#8 :: rest else ∃ rest, bytes = i.encode ++ rest

/-- 95_test_vectors (D1): one word of each family, written out from the spec, decodes to what it stands for. -/
def Obligations.SampleWordsDecodeAsTheSpecWritesThem : Prop :=
  decode Config.defaults [0xA2#8, 0x00#8, 0x01#8] = .ok (.mul 0 1) ∧
  decode Config.defaults [0x69#8, 0x02#8] = .ok (.not 2) ∧
  decode Config.defaults [0x82#8, 0x00#8, 0x09#8] = .ok (.ldi 0 9#8) ∧
  decode Config.defaults [0x84#8, 0x02#8, 0x01#8] = .ok (.st 2 1) ∧
  decode Config.defaults [0x47#8, 0x07#8] = .ok (.prn 7) ∧
  decode Config.defaults [0x45#8, 0x03#8] = .ok (.push 3) ∧
  decode Config.defaults [0x5A#8, 0x02#8] = .ok (.jge (.reg 2)) ∧
  decode { Config.defaults with targetMode := .imm } [0x54#8, 0x08#8] = .ok (.jmp (.imm 8#8)) ∧
  decode Config.defaults [0x01#8] = .ok .hlt

/-! ## ALU instructions -/

/-- 41_alu R101, R102, R103: ADD, SUB and MUL modulo 256, with their encodings and frames. -/
def Obligations.AddSubMulWriteTheResultModulo256 : Prop :=
  (∀ a b : Reg, (Instr.add a b).encode = [0xA0#8, regByte a, regByte b] ∧
    (Instr.sub a b).encode = [0xA1#8, regByte a, regByte b] ∧
    (Instr.mul a b).encode = [0xA2#8, regByte a, regByte b]) ∧
  ∀ (s : State) (a b : Reg), Fits 3 s →
    (∃ t, exec (.add a b) s = .next t ∧
      (readReg t a).toNat = ((readReg s a).toNat + (readReg s b).toNat) % 256 ∧
      OnlyRegsChange [a] s t ∧ ProgressedBy 3 s t) ∧
    (∃ t, exec (.sub a b) s = .next t ∧
      (readReg t a).toNat = ((readReg s a).toNat + 256 - (readReg s b).toNat) % 256 ∧
      OnlyRegsChange [a] s t ∧ ProgressedBy 3 s t) ∧
    (∃ t, exec (.mul a b) s = .next t ∧
      (readReg t a).toNat = ((readReg s a).toNat * (readReg s b).toNat) % 256 ∧
      OnlyRegsChange [a] s t ∧ ProgressedBy 3 s t)

/-- 41_alu section 2 (D12): DIV and MOD by a divisor that is not 0 give the unsigned quotient and remainder. -/
def Obligations.DivModWriteQuotientAndRemainder : Prop :=
  ∀ (s : State) (a b : Reg), Fits 3 s → readReg s b ≠ 0#8 →
    (∃ t, exec (.div a b) s = .next t ∧
      (readReg t a).toNat = (readReg s a).toNat / (readReg s b).toNat ∧
      OnlyRegsChange [a] s t ∧ ProgressedBy 3 s t) ∧
    (∃ t, exec (.mod a b) s = .next t ∧
      (readReg t a).toNat = (readReg s a).toNat % (readReg s b).toNat ∧
      OnlyRegsChange [a] s t ∧ ProgressedBy 3 s t)

/-- 41_alu section 2 and 60_exceptions section 1 (D12, D16): a zero divisor ends the run with ALUFault and nothing
else changes, at any address. -/
def Obligations.DivModByZeroRaiseAluFault : Prop :=
  ∀ (s : State) (a b : Reg), readReg s b = 0#8 →
    exec (.div a b) s = .next { s with run := .halted (.aluFault .divisionByZero .div s.pc) } ∧
    exec (.mod a b) s = .next { s with run := .halted (.aluFault .divisionByZero .mod s.pc) }

/-- 41_alu R106, R107: INC and DEC modulo 256, with their encodings and frames. -/
def Obligations.IncDecMoveTheRegisterByOne : Prop :=
  (∀ a : Reg, (Instr.inc a).encode = [0x65#8, regByte a] ∧ (Instr.dec a).encode = [0x66#8, regByte a]) ∧
  ∀ (s : State) (a : Reg), Fits 2 s →
    (∃ t, exec (.inc a) s = .next t ∧ (readReg t a).toNat = ((readReg s a).toNat + 1) % 256 ∧
      OnlyRegsChange [a] s t ∧ ProgressedBy 2 s t) ∧
    (∃ t, exec (.dec a) s = .next t ∧ (readReg t a).toNat = ((readReg s a).toNat + 255) % 256 ∧
      OnlyRegsChange [a] s t ∧ ProgressedBy 2 s t)

/-- 41_alu section 3 (D10): CMP writes all three flags from the unsigned comparison and nothing else. -/
def Obligations.CmpWritesAllThreeFlags : Prop :=
  ∀ (s : State) (a b : Reg), Fits 3 s →
    ∃ t, exec (.cmp a b) s = .next t ∧
      (t.flags.e = true ↔ (readReg s a).toNat = (readReg s b).toNat) ∧
      (t.flags.g = true ↔ (readReg s a).toNat > (readReg s b).toNat) ∧
      (t.flags.l = true ↔ (readReg s a).toNat < (readReg s b).toNat) ∧
      SameRegsBut [] s t ∧ SameMemBut [] s t ∧ t.out = s.out ∧ SameRun s t ∧ ProgressedBy 3 s t

/-- 41_alu R109, R110, R111, R112: the bitwise operations bit by bit, with their encodings and frames. -/
def Obligations.AndOrXorNotWorkBitByBit : Prop :=
  (∀ a b : Reg, (Instr.and a b).encode = [0xA8#8, regByte a, regByte b] ∧
    (Instr.or a b).encode = [0xAA#8, regByte a, regByte b] ∧
    (Instr.xor a b).encode = [0xAB#8, regByte a, regByte b] ∧
    (Instr.not a).encode = [0x69#8, regByte a]) ∧
  (∀ (s : State) (a b : Reg), Fits 3 s →
    (∃ t, exec (.and a b) s = .next t ∧
      (∀ k, k < 8 → (readReg t a).getLsbD k = ((readReg s a).getLsbD k && (readReg s b).getLsbD k)) ∧
      OnlyRegsChange [a] s t ∧ ProgressedBy 3 s t) ∧
    (∃ t, exec (.or a b) s = .next t ∧
      (∀ k, k < 8 → (readReg t a).getLsbD k = ((readReg s a).getLsbD k || (readReg s b).getLsbD k)) ∧
      OnlyRegsChange [a] s t ∧ ProgressedBy 3 s t) ∧
    (∃ t, exec (.xor a b) s = .next t ∧
      (∀ k, k < 8 → (readReg t a).getLsbD k = ((readReg s a).getLsbD k ^^ (readReg s b).getLsbD k)) ∧
      OnlyRegsChange [a] s t ∧ ProgressedBy 3 s t)) ∧
  (∀ (s : State) (a : Reg), Fits 2 s →
    ∃ t, exec (.not a) s = .next t ∧ (readReg t a).toNat = 255 - (readReg s a).toNat ∧
      OnlyRegsChange [a] s t ∧ ProgressedBy 2 s t)

/-- 41_alu section 4 (D13): SHL and SHR by the whole value of the second register. -/
def Obligations.ShiftsUseTheWholeAmount : Prop :=
  ∀ (s : State) (a b : Reg), Fits 3 s →
    (∃ t, exec (.shl a b) s = .next t ∧
      (readReg t a).toNat = ((readReg s a).toNat * 2 ^ (readReg s b).toNat) % 256 ∧
      OnlyRegsChange [a] s t ∧ ProgressedBy 3 s t) ∧
    (∃ t, exec (.shr a b) s = .next t ∧
      (readReg t a).toNat = (readReg s a).toNat / 2 ^ (readReg s b).toNat ∧
      OnlyRegsChange [a] s t ∧ ProgressedBy 3 s t)

/-! ## Data movement and output -/

/-- 42_data_movement R120: LDI loads its immediate unchecked, with its encoding and frame, and PRN on the same
register right after it prints exactly that value. -/
def Obligations.LdiLoadsTheImmediate : Prop :=
  (∀ (a : Reg) (b : Byte), (Instr.ldi a b).encode = [0x82#8, regByte a, b]) ∧
  (∀ (s : State) (a : Reg) (b : Byte), Fits 3 s →
    ∃ t, exec (.ldi a b) s = .next t ∧ readReg t a = b ∧ OnlyRegsChange [a] s t ∧ ProgressedBy 3 s t) ∧
  (∀ (s t : State) (a : Reg) (b : Byte), s.run = .running → exec (.ldi a b) s = .next t → t.run = .running →
    ∃ u, exec (.prn a) t = .next u ∧ u.out = s.out ++ [{ kind := .prn, value := b }])

/-- 42_data_movement (D4): LD reads the cell whose address is in its second register. -/
def Obligations.LdReadsTheAddressedCell : Prop :=
  ∀ (s : State) (a b : Reg), Fits 3 s →
    ∃ t, exec (.ld a b) s = .next t ∧ readReg t a = readMem s (readReg s b) ∧
      OnlyRegsChange [a] s t ∧ ProgressedBy 3 s t

/-- 42_data_movement (D4): ST writes the cell whose address is in its first register, and no other cell. -/
def Obligations.StWritesTheAddressedCell : Prop :=
  ∀ (s : State) (a b : Reg), Fits 3 s →
    ∃ t, exec (.st a b) s = .next t ∧ indirectAddr s a = readReg s a ∧
      readMem t (indirectAddr s a) = readReg s b ∧
      OnlyRegsAndCellsChange [] [indirectAddr s a] s t ∧ ProgressedBy 3 s t

/-- 20_memory section 5: a store into the next instruction's opcode is what the next fetch sees. -/
def Obligations.StoreIsSeenByTheNextFetch : Prop :=
  ∀ (s t : State) (a b : Reg), Fits 3 s → readReg s a = s.pc + 3#8 → exec (.st a b) s = .next t →
    ∃ rest, fetchBytes t = readReg s b :: rest

/-- 42_data_movement (D17): PRN and PRA append one event and change nothing else. -/
def Obligations.PrnPraAppendOneEvent : Prop :=
  ∀ (s : State) (a : Reg), Fits 2 s →
    (∃ t, exec (.prn a) s = .next t ∧ t.out = s.out ++ [{ kind := .prn, value := readReg s a }] ∧
      SameRegsBut [] s t ∧ SameMemBut [] s t ∧ t.flags = s.flags ∧ SameRun s t ∧ ProgressedBy 2 s t) ∧
    (∃ t, exec (.pra a) s = .next t ∧ t.out = s.out ++ [{ kind := .pra, value := readReg s a }] ∧
      SameRegsBut [] s t ∧ SameMemBut [] s t ∧ t.flags = s.flags ∧ SameRun s t ∧ ProgressedBy 2 s t)

/-! ## Stack -/

/-- 43_stack (D15): PUSH decrements R7 and stores at the new R7; PUSH R7 stores the decremented value. -/
def Obligations.PushStoresBelowTheStackPointer : Prop :=
  ∀ (s : State) (a : Reg), Fits 2 s →
    ∃ t, exec (.push a) s = .next t ∧
      (sp (decSp s)).toNat = ((readReg s 7).toNat + 255) % 256 ∧ readReg t 7 = sp (decSp s) ∧
      readMem t (sp (decSp s)) = (if a = 7 then sp (decSp s) else readReg s a) ∧
      OnlyRegsAndCellsChange [7] [sp (decSp s)] s t ∧ ProgressedBy 2 s t

/-- 43_stack (D15): POP loads the register from the cell at R7 and increments R7; POP R7 ends one above the popped
byte. -/
def Obligations.PopLoadsFromTheStackPointer : Prop :=
  ∀ (s : State) (a : Reg), Fits 2 s →
    ∃ t, exec (.pop a) s = .next t ∧
      (a ≠ 7 → readReg t a = readMem s (readReg s 7) ∧
        (readReg t 7).toNat = ((readReg s 7).toNat + 1) % 256) ∧
      (a = 7 → (readReg t 7).toNat = ((readMem s (readReg s 7)).toNat + 1) % 256) ∧
      OnlyRegsChange [a, 7] s t ∧ ProgressedBy 2 s t

/-- 43_stack (derived there): PUSH then POP copies a register and restores the stack pointer, wherever it stands; and
on R7 itself the pair restores it too (95_test_vectors E6). -/
def Obligations.PushThenPopCopiesTheRegister : Prop :=
  (∀ (s : State) (src dst : Reg), Fits 4 s → src ≠ 7 → dst ≠ 7 →
    ∃ t u, exec (.push src) s = .next t ∧ exec (.pop dst) t = .next u ∧
      readReg u dst = readReg s src ∧ SameRegsBut [dst] s u ∧
      readMem u (readReg s 7 - 1#8) = readReg s src ∧ ProgressedBy 4 s u) ∧
  (∀ s : State, Fits 4 s →
    ∃ t u, exec (.push 7) s = .next t ∧ exec (.pop 7) t = .next u ∧ SameRegsBut [] s u)

/-! ## Control flow -/

/-- 44_control_flow sections 1 and 2 (D5): JMP sets the program counter to its target, the register's content or the
address itself, at any address and with nothing else changed. -/
def Obligations.JmpSetsThePcToItsTarget : Prop :=
  ∀ s : State,
    (∀ r : Reg, targetValue s (.reg r) = readReg s r ∧
      exec (.jmp (.reg r)) s = .next { s with pc := readReg s r }) ∧
    (∀ v : Byte, targetValue s (.imm v) = v ∧ exec (.jmp (.imm v)) s = .next { s with pc := v })

/-- 44_control_flow section 2 (D5, D11): each conditional jump whose condition holds jumps, at any address, with
nothing else changed. -/
def Obligations.ConditionalJumpsBranchWhenTheirConditionHolds : Prop :=
  ∀ (s : State) (t : Target),
    (s.flags.e = true → exec (.jeq t) s = .next { s with pc := targetValue s t }) ∧
    (s.flags.e = false → exec (.jne t) s = .next { s with pc := targetValue s t }) ∧
    (s.flags.g = true → exec (.jgt t) s = .next { s with pc := targetValue s t }) ∧
    (s.flags.l = true → exec (.jlt t) s = .next { s with pc := targetValue s t }) ∧
    (s.flags.l = true ∨ s.flags.e = true → exec (.jle t) s = .next { s with pc := targetValue s t }) ∧
    (s.flags.g = true ∨ s.flags.e = true → exec (.jge t) s = .next { s with pc := targetValue s t })

/-- 44_control_flow section 2 (D11): each conditional jump whose condition fails goes on with the next instruction. -/
def Obligations.ConditionalJumpsFallThroughOtherwise : Prop :=
  ∀ (s : State) (t : Target), Fits 2 s →
    (s.flags.e = false → exec (.jeq t) s = .next { s with pc := s.pc + 2#8 }) ∧
    (s.flags.e = true → exec (.jne t) s = .next { s with pc := s.pc + 2#8 }) ∧
    (s.flags.g = false → exec (.jgt t) s = .next { s with pc := s.pc + 2#8 }) ∧
    (s.flags.l = false → exec (.jlt t) s = .next { s with pc := s.pc + 2#8 }) ∧
    (s.flags.l = false ∧ s.flags.e = false → exec (.jle t) s = .next { s with pc := s.pc + 2#8 }) ∧
    (s.flags.g = false ∧ s.flags.e = false → exec (.jge t) s = .next { s with pc := s.pc + 2#8 })

/-- 44_control_flow section 3 (D5, D15): CALL pushes the address after it, modulo 256, and jumps to the target read
after the push, so CALL R7 jumps to the decremented stack pointer. -/
def Obligations.CallPushesTheReturnAddressAndJumps : Prop :=
  ∀ (s : State) (tg : Target),
    ∃ t, exec (.call tg) s = .next t ∧
      (sp (decSp s)).toNat = ((readReg s 7).toNat + 255) % 256 ∧ readReg t 7 = sp (decSp s) ∧
      (readMem t (sp (decSp s))).toNat = (s.pc.toNat + 2) % 256 ∧
      OnlyRegsAndCellsChange [7] [sp (decSp s)] s t ∧
      (∀ v : Byte, tg = .imm v → t.pc = v) ∧
      (∀ r : Reg, tg = .reg r → t.pc = if r = 7 then sp (decSp s) else readReg s r)

/-- 44_control_flow R149: RET jumps to the popped byte, with its encoding and frame; and a RET that finds R7 and the
pushed cell as a CALL left them returns to the instruction after that CALL. -/
def Obligations.RetPopsTheProgramCounter : Prop :=
  Instr.ret.encode = [0x11#8] ∧
  (∀ s : State, ∃ t, exec .ret s = .next t ∧ t.pc = readMem s (readReg s 7) ∧
    (readReg t 7).toNat = ((readReg s 7).toNat + 1) % 256 ∧ OnlyRegsChange [7] s t) ∧
  (∀ (s t u : State) (tg : Target), exec (.call tg) s = .next t → readReg u 7 = readReg t 7 →
    readMem u (readReg t 7) = readMem t (readReg t 7) →
    ∃ v, exec .ret u = .next v ∧ v.pc = s.pc + 2#8 ∧ readReg v 7 = readReg s 7)

/-! ## System instructions -/

/-- 45_system NOP and 40_execution_cycle section 2: NOP moves the program counter by one and changes nothing else; a
cell holding zero is a NOP. That at 0xFF it ends the run under PC_OVERFLOW_POLICY = fault and goes on at address 0 under
`wrap` is the spec's decision D7 (log entry 9). -/
def Obligations.NopOnlyAdvances : Prop :=
  Instr.nop.encode = [0x00#8] ∧
  (∀ s : State, Fits 1 s → exec .nop s = .next { s with pc := s.pc + 1#8 }) ∧
  (∀ s : State, s.pc = 0xFF#8 → s.cfg.pcOverflow = .fault →
    exec .nop s = .next { s with run := .halted (.fetchOutOfRange .successor 0xFF#8) }) ∧
  (∀ s : State, s.pc = 0xFF#8 → s.cfg.pcOverflow = .wrap → exec .nop s = .next { s with pc := 0x00#8 }) ∧
  (∀ s : State, s.run = .running → readMem s s.pc = 0x00#8 → step s = exec .nop s)

/-- 45_system R161: HLT halts clean with everything else, the program counter too, unchanged, at any address; no
further instruction executes. -/
def Obligations.HltHaltsClean : Prop :=
  Instr.hlt.encode = [0x01#8] ∧
  ∀ s : State, ∃ t, exec .hlt s = .next t ∧ t = { s with run := .halted .clean } ∧
    t.report = some .clean ∧ (∀ u : State, step t ≠ .next u)

/-- 45_system (D14): INT and IRET have no handler; each raises UnknownInstruction and changes nothing else, whatever
follows the opcode. -/
def Obligations.IntIretRaiseUnknownInstruction : Prop :=
  ∀ s : State,
    exec .int s = .next { s with run := .halted (.unknownInstruction 0x52#8 s.pc) } ∧
    exec .iret s = .next { s with run := .halted (.unknownInstruction 0x13#8 s.pc) } ∧
    (∀ rest : List Byte, decode s.cfg (0x52#8 :: rest) = .ok .int ∧ decode s.cfg (0x13#8 :: rest) = .ok .iret)

/-! ## The top of memory -/

/-- 40_execution_cycle section 2 (D7): under PC_OVERFLOW_POLICY = fault an instruction whose successor lies beyond
0xFF has its whole effect, the same as anywhere else, and then the run ends with the program counter unchanged. -/
def Obligations.SuccessorBeyondTopEndsTheRunAfterTheEffect : Prop :=
  ∀ (i : Instr) (s : State), continues s i = true → s.cfg.pcOverflow = .fault → s.pc.toNat + i.length > 255 →
    ∃ u, exec i { s with pc := 0x00#8 } = .next u ∧
      exec i s = .next { u with pc := s.pc, run := .halted (.fetchOutOfRange .successor s.pc) }

/-- 40_execution_cycle section 2 (D7): under PC_OVERFLOW_POLICY = wrap the program counter of an instruction whose
outcome is `continue` goes on modulo 256, and the effect is the same as anywhere else. -/
def Obligations.WrapPolicyContinuesModulo256 : Prop :=
  ∀ (i : Instr) (s : State), continues s i = true → s.cfg.pcOverflow = .wrap →
    ∃ u, exec i { s with pc := 0x00#8 } = .next u ∧
      exec i s = .next { u with pc := BitVec.ofNat 8 ((s.pc.toNat + i.length) % 256) }

/-! ## Rules of the whole machine -/

/-- 10_state section 4 (D10, D25): no instruction but CMP writes a flag. -/
def Obligations.OnlyCmpWritesTheFlags : Prop :=
  ∀ (i : Instr) (s t : State), exec i s = .next t → (∀ a b : Reg, i ≠ .cmp a b) → t.flags = s.flags

/-- 20_memory section 1 (derived there): only ST, PUSH and CALL write memory, each one cell, at the address the rule
gives. -/
def Obligations.OnlyStPushCallWriteMemory : Prop :=
  ∀ (i : Instr) (s t : State), exec i s = .next t → SameMemBut (writtenCells s i) s t

/-- 10_state section 2 (derived there): an instruction writes no register but its destination and, for the stack
instructions, R7. -/
def Obligations.InstructionsWriteOnlyTheirRegisters : Prop :=
  ∀ (i : Instr) (s t : State), exec i s = .next t → SameRegsBut (writtenRegs i) s t

/-- 10_state section 7 (D17): the output stream only grows, by one event, and only in PRN and PRA. -/
def Obligations.OutputIsAppendOnly : Prop :=
  ∀ s t : State, step s = .next t →
    t.out = s.out ∨
    (∃ a, decode s.cfg (fetchBytes s) = .ok (.prn a) ∧ t.out = s.out ++ [{ kind := .prn, value := readReg s a }]) ∨
    (∃ a, decode s.cfg (fetchBytes s) = .ok (.pra a) ∧ t.out = s.out ++ [{ kind := .pra, value := readReg s a }])

/-- 60_exceptions section 1: the clean report is produced by HLT only. -/
def Obligations.CleanHaltComesOnlyFromHlt : Prop :=
  ∀ s t : State, step s = .next t → t.run = .halted .clean → decode s.cfg (fetchBytes s) = .ok .hlt

/-- 60_exceptions section 1 (D16): a fault other than that of the successor stage changes nothing but the run
state. -/
def Obligations.FaultsArePrecise : Prop :=
  ∀ (s t : State) (r : Report), step s = .next t → t.run = .halted r →
    (∀ a : Byte, r ≠ .fetchOutOfRange .successor a) → t = { s with run := .halted r }

/-- 10_state section 1: the parameters are fixed before reset and never change. That the state carries them is the
model's choice (log entry 1). -/
def Obligations.ParametersNeverChange : Prop :=
  ∀ s t : State, step s = .next t → t.cfg = s.cfg

/-! ## Invariants -/

/-- 20_memory section 1; the canonical form is the model's (log entry 7): every step keeps it, from every state that
has it. -/
def Obligations.StepKeepsMemoryCanonical : Prop :=
  ∀ s t : State, Memory.wf s.mem → step s = .next t → Memory.wf t.mem

/-- 44_control_flow section 2, truth table (D10): every step keeps at most one flag set. -/
def Obligations.StepKeepsFlagsExclusive : Prop :=
  ∀ s t : State, FlagsExclusive s → step s = .next t → FlagsExclusive t

/-- 60_exceptions section 1 (D6, D7, D16, D23): the report that a step leaves fits the machine it leaves. -/
def Obligations.StepLeavesAFittingReport : Prop :=
  ∀ s t : State, step s = .next t → ReportFits t

/-- 10_state section 8, 20_memory section 4: the machine right after reset meets the invariants, at every setting of
the parameters. -/
def Obligations.ResetMeetsTheInvariants : Prop :=
  ∀ c : Config, Memory.wf (State.resetWith c).mem ∧ FlagsExclusive (State.resetWith c) ∧
    ReportFits (State.resetWith c)
end

