-- ==== Sys2Proof/Laws/State.lean ====
section
/-! SUPPORT. One lemma per field per update of the state, each true by definition, so that no later proof unfolds a
record update; and the fields `advance` leaves alone. -/

namespace Sys2Proof.Machine

open Sys2Proof

/-! ## writeReg -/

@[simp] theorem writeReg_pc (s : State) (r : Reg) (v : Byte) : (writeReg s r v).pc = s.pc := rfl

@[simp] theorem writeReg_flags (s : State) (r : Reg) (v : Byte) : (writeReg s r v).flags = s.flags := rfl

@[simp] theorem writeReg_run (s : State) (r : Reg) (v : Byte) : (writeReg s r v).run = s.run := rfl

@[simp] theorem writeReg_out (s : State) (r : Reg) (v : Byte) : (writeReg s r v).out = s.out := rfl

@[simp] theorem writeReg_mem (s : State) (r : Reg) (v : Byte) : (writeReg s r v).mem = s.mem := rfl

@[simp] theorem writeReg_cfg (s : State) (r : Reg) (v : Byte) : (writeReg s r v).cfg = s.cfg := rfl

@[simp] theorem writeReg_regs (s : State) (r : Reg) (v : Byte) : (writeReg s r v).regs = s.regs.set r v := rfl

/-! ## writeMem -/

@[simp] theorem writeMem_regs (s : State) (a v : Byte) : (writeMem s a v).regs = s.regs := rfl

@[simp] theorem writeMem_pc (s : State) (a v : Byte) : (writeMem s a v).pc = s.pc := rfl

@[simp] theorem writeMem_flags (s : State) (a v : Byte) : (writeMem s a v).flags = s.flags := rfl

@[simp] theorem writeMem_run (s : State) (a v : Byte) : (writeMem s a v).run = s.run := rfl

@[simp] theorem writeMem_out (s : State) (a v : Byte) : (writeMem s a v).out = s.out := rfl

@[simp] theorem writeMem_cfg (s : State) (a v : Byte) : (writeMem s a v).cfg = s.cfg := rfl

@[simp] theorem writeMem_mem (s : State) (a v : Byte) : (writeMem s a v).mem = memWrite s.mem a.toNat v := rfl

/-! ## emit -/

@[simp] theorem emit_regs (s : State) (k : EventKind) (v : Byte) : (emit k v s).regs = s.regs := rfl

@[simp] theorem emit_pc (s : State) (k : EventKind) (v : Byte) : (emit k v s).pc = s.pc := rfl

@[simp] theorem emit_flags (s : State) (k : EventKind) (v : Byte) : (emit k v s).flags = s.flags := rfl

@[simp] theorem emit_run (s : State) (k : EventKind) (v : Byte) : (emit k v s).run = s.run := rfl

@[simp] theorem emit_mem (s : State) (k : EventKind) (v : Byte) : (emit k v s).mem = s.mem := rfl

@[simp] theorem emit_cfg (s : State) (k : EventKind) (v : Byte) : (emit k v s).cfg = s.cfg := rfl

@[simp] theorem emit_out (s : State) (k : EventKind) (v : Byte) : (emit k v s).out = s.out ++ [{ kind := k, value := v }] := rfl

/-! ## writeFlags -/

@[simp] theorem writeFlags_regs (s : State) (f : Flags) : (writeFlags f s).regs = s.regs := rfl

@[simp] theorem writeFlags_pc (s : State) (f : Flags) : (writeFlags f s).pc = s.pc := rfl

@[simp] theorem writeFlags_run (s : State) (f : Flags) : (writeFlags f s).run = s.run := rfl

@[simp] theorem writeFlags_out (s : State) (f : Flags) : (writeFlags f s).out = s.out := rfl

@[simp] theorem writeFlags_mem (s : State) (f : Flags) : (writeFlags f s).mem = s.mem := rfl

@[simp] theorem writeFlags_cfg (s : State) (f : Flags) : (writeFlags f s).cfg = s.cfg := rfl

@[simp] theorem writeFlags_flags (s : State) (f : Flags) : (writeFlags f s).flags = f := rfl

/-! ## raise -/

@[simp] theorem raise_regs (s : State) (f : Report) : (raise f s).regs = s.regs := rfl

@[simp] theorem raise_pc (s : State) (f : Report) : (raise f s).pc = s.pc := rfl

@[simp] theorem raise_flags (s : State) (f : Report) : (raise f s).flags = s.flags := rfl

@[simp] theorem raise_out (s : State) (f : Report) : (raise f s).out = s.out := rfl

@[simp] theorem raise_mem (s : State) (f : Report) : (raise f s).mem = s.mem := rfl

@[simp] theorem raise_cfg (s : State) (f : Report) : (raise f s).cfg = s.cfg := rfl

@[simp] theorem raise_run (s : State) (f : Report) : (raise f s).run = .halted f := rfl

/-! ## haltClean -/

@[simp] theorem haltClean_regs (s : State) : (haltClean s).regs = s.regs := rfl

@[simp] theorem haltClean_pc (s : State) : (haltClean s).pc = s.pc := rfl

@[simp] theorem haltClean_flags (s : State) : (haltClean s).flags = s.flags := rfl

@[simp] theorem haltClean_out (s : State) : (haltClean s).out = s.out := rfl

@[simp] theorem haltClean_mem (s : State) : (haltClean s).mem = s.mem := rfl

@[simp] theorem haltClean_cfg (s : State) : (haltClean s).cfg = s.cfg := rfl

@[simp] theorem haltClean_run (s : State) : (haltClean s).run = .halted .clean := rfl

/-! ## jumpTo -/

@[simp] theorem jumpTo_regs (s : State) (t : Byte) : (jumpTo t s).regs = s.regs := rfl

@[simp] theorem jumpTo_flags (s : State) (t : Byte) : (jumpTo t s).flags = s.flags := rfl

@[simp] theorem jumpTo_run (s : State) (t : Byte) : (jumpTo t s).run = s.run := rfl

@[simp] theorem jumpTo_out (s : State) (t : Byte) : (jumpTo t s).out = s.out := rfl

@[simp] theorem jumpTo_mem (s : State) (t : Byte) : (jumpTo t s).mem = s.mem := rfl

@[simp] theorem jumpTo_cfg (s : State) (t : Byte) : (jumpTo t s).cfg = s.cfg := rfl

@[simp] theorem jumpTo_pc (s : State) (t : Byte) : (jumpTo t s).pc = t := rfl

/-! ## decSp -/

@[simp] theorem decSp_pc (s : State) : (decSp s).pc = s.pc := rfl

@[simp] theorem decSp_flags (s : State) : (decSp s).flags = s.flags := rfl

@[simp] theorem decSp_run (s : State) : (decSp s).run = s.run := rfl

@[simp] theorem decSp_out (s : State) : (decSp s).out = s.out := rfl

@[simp] theorem decSp_mem (s : State) : (decSp s).mem = s.mem := rfl

@[simp] theorem decSp_cfg (s : State) : (decSp s).cfg = s.cfg := rfl

/-! ## incSp -/

@[simp] theorem incSp_pc (s : State) : (incSp s).pc = s.pc := rfl

@[simp] theorem incSp_flags (s : State) : (incSp s).flags = s.flags := rfl

@[simp] theorem incSp_run (s : State) : (incSp s).run = s.run := rfl

@[simp] theorem incSp_out (s : State) : (incSp s).out = s.out := rfl

@[simp] theorem incSp_mem (s : State) : (incSp s).mem = s.mem := rfl

@[simp] theorem incSp_cfg (s : State) : (incSp s).cfg = s.cfg := rfl

/-! ## aluBinary -/

@[simp] theorem aluBinary_pc (s : State) (f : Byte → Byte → Byte) (a b : Reg) : (aluBinary f a b s).pc = s.pc := rfl

@[simp] theorem aluBinary_flags (s : State) (f : Byte → Byte → Byte) (a b : Reg) : (aluBinary f a b s).flags = s.flags := rfl

@[simp] theorem aluBinary_run (s : State) (f : Byte → Byte → Byte) (a b : Reg) : (aluBinary f a b s).run = s.run := rfl

@[simp] theorem aluBinary_out (s : State) (f : Byte → Byte → Byte) (a b : Reg) : (aluBinary f a b s).out = s.out := rfl

@[simp] theorem aluBinary_mem (s : State) (f : Byte → Byte → Byte) (a b : Reg) : (aluBinary f a b s).mem = s.mem := rfl

@[simp] theorem aluBinary_cfg (s : State) (f : Byte → Byte → Byte) (a b : Reg) : (aluBinary f a b s).cfg = s.cfg := rfl

/-! ## aluUnary -/

@[simp] theorem aluUnary_pc (s : State) (f : Byte → Byte) (a : Reg) : (aluUnary f a s).pc = s.pc := rfl

@[simp] theorem aluUnary_flags (s : State) (f : Byte → Byte) (a : Reg) : (aluUnary f a s).flags = s.flags := rfl

@[simp] theorem aluUnary_run (s : State) (f : Byte → Byte) (a : Reg) : (aluUnary f a s).run = s.run := rfl

@[simp] theorem aluUnary_out (s : State) (f : Byte → Byte) (a : Reg) : (aluUnary f a s).out = s.out := rfl

@[simp] theorem aluUnary_mem (s : State) (f : Byte → Byte) (a : Reg) : (aluUnary f a s).mem = s.mem := rfl

@[simp] theorem aluUnary_cfg (s : State) (f : Byte → Byte) (a : Reg) : (aluUnary f a s).cfg = s.cfg := rfl

/-! ## advance -/

@[simp] theorem advance_regs (n : Nat) (s : State) : (advance n s).regs = s.regs := by
  unfold advance; split
  · rfl
  · split <;> rfl

@[simp] theorem advance_flags (n : Nat) (s : State) : (advance n s).flags = s.flags := by
  unfold advance; split
  · rfl
  · split <;> rfl

@[simp] theorem advance_out (n : Nat) (s : State) : (advance n s).out = s.out := by
  unfold advance; split
  · rfl
  · split <;> rfl

@[simp] theorem advance_mem (n : Nat) (s : State) : (advance n s).mem = s.mem := by
  unfold advance; split
  · rfl
  · split <;> rfl

@[simp] theorem advance_cfg (n : Nat) (s : State) : (advance n s).cfg = s.cfg := by
  unfold advance; split
  · rfl
  · split <;> rfl

/-! ## Reads through the updates that leave registers or memory alone -/

theorem readReg_congr {s t : State} (h : t.regs = s.regs) (r : Reg) : readReg t r = readReg s r := by
  simp only [readReg, h]

theorem readMem_congr {s t : State} (h : t.mem = s.mem) (a : Byte) : readMem t a = readMem s a := by
  simp only [readMem, h]

@[simp] theorem readReg_advance (n : Nat) (s : State) (r : Reg) : readReg (advance n s) r = readReg s r :=
  readReg_congr (advance_regs n s) r

@[simp] theorem readMem_advance (n : Nat) (s : State) (a : Byte) : readMem (advance n s) a = readMem s a :=
  readMem_congr (advance_mem n s) a

@[simp] theorem readReg_writeMem (s : State) (a v : Byte) (r : Reg) : readReg (writeMem s a v) r = readReg s r := rfl

@[simp] theorem readMem_writeReg (s : State) (r : Reg) (v a : Byte) : readMem (writeReg s r v) a = readMem s a := rfl

@[simp] theorem readReg_jumpTo (s : State) (t : Byte) (r : Reg) : readReg (jumpTo t s) r = readReg s r := rfl

@[simp] theorem readMem_jumpTo (s : State) (t a : Byte) : readMem (jumpTo t s) a = readMem s a := rfl

@[simp] theorem readReg_emit (s : State) (k : EventKind) (v : Byte) (r : Reg) : readReg (emit k v s) r = readReg s r := rfl

@[simp] theorem readMem_emit (s : State) (k : EventKind) (v a : Byte) : readMem (emit k v s) a = readMem s a := rfl

@[simp] theorem readReg_writeFlags (s : State) (f : Flags) (r : Reg) : readReg (writeFlags f s) r = readReg s r := rfl

@[simp] theorem readMem_writeFlags (s : State) (f : Flags) (a : Byte) : readMem (writeFlags f s) a = readMem s a := rfl

@[simp] theorem readReg_raise (s : State) (f : Report) (r : Reg) : readReg (raise f s) r = readReg s r := rfl

@[simp] theorem readMem_raise (s : State) (f : Report) (a : Byte) : readMem (raise f s) a = readMem s a := rfl

end Sys2Proof.Machine
end

