-- ==== Sys2Proof/Laws/Memory.lean ====
section
/-! SUPPORT. What a memory write does to every cell, and that every memory operation keeps the canonical form. -/

namespace Sys2Proof.Machine

open Sys2Proof

/-! ## Reading after a write -/

theorem memRead_filter_same (m : Memory) (a : Nat) :
    memRead (m.filter (fun p => p.1 != a)) a = unlistedByte := by
  induction m with
  | nil => rfl
  | cons p m ih =>
    by_cases h : p.1 = a
    · simp [h, ih]
    · simp [h, memRead, ih]

theorem memRead_filter_ne (m : Memory) {a b : Nat} (hab : b ≠ a) :
    memRead (m.filter (fun p => p.1 != a)) b = memRead m b := by
  induction m with
  | nil => rfl
  | cons p m ih =>
    by_cases h : p.1 = a
    · have hb : p.1 ≠ b := fun hp => hab (hp.symm.trans h)
      rw [List.filter_cons_of_neg (by simp [h]), ih, memRead, if_neg hb]
    · rw [List.filter_cons_of_pos (by simp [h]), memRead, memRead, ih]

theorem memRead_memInsert_same (m : Memory) (a : Nat) (v : Byte) (h : ∀ p ∈ m, p.1 ≠ a) :
    memRead (memInsert a v m) a = v := by
  induction m with
  | nil => simp [memInsert, memRead]
  | cons p m ih =>
    simp only [memInsert]
    split
    · simp [memRead]
    · simp [memRead, h p (by simp), ih (fun q hq => h q (by simp [hq]))]

theorem memRead_memInsert_ne (m : Memory) {a b : Nat} (v : Byte) (hab : b ≠ a) :
    memRead (memInsert a v m) b = memRead m b := by
  induction m with
  | nil => simp [memInsert, memRead, hab.symm]
  | cons p m ih =>
    simp only [memInsert]
    split
    · simp [memRead, hab.symm]
    · simp [memRead, ih]

/-- A write sets its cell and no other, in every list (20_memory R33). -/
theorem memRead_memWrite (m : Memory) (a b : Nat) (v : Byte) :
    memRead (memWrite m a v) b = if b = a then v else memRead m b := by
  by_cases hab : b = a
  · subst hab
    by_cases hv : v = unlistedByte
    · simp [memWrite, hv, memRead_filter_same]
    · have hb : ∀ p ∈ m.filter (fun p => p.1 != b), p.1 ≠ b := fun p hp => by simpa using (List.mem_filter.1 hp).2
      simp [memWrite, hv, memRead_memInsert_same _ b v hb]
  · by_cases hv : v = unlistedByte
    · simp [memWrite, hv, memRead_filter_ne m hab, hab]
    · simp [memWrite, hv, memRead_memInsert_ne _ v hab, memRead_filter_ne m hab, hab]

/-! ## The canonical form -/

theorem mem_memInsert {m : Memory} {a : Nat} {v : Byte} {p : Host.Cell} (h : p ∈ memInsert a v m) :
    p = (a, v) ∨ p ∈ m := by
  induction m with
  | nil => simpa [memInsert] using h
  | cons q m ih =>
    simp only [memInsert] at h
    split at h
    · simpa using h
    · rcases List.mem_cons.1 h with h | h
      · exact .inr (by simp [h])
      · exact (ih h).imp id (fun h => by simp [h])

theorem memInsert_pairwise (m : Memory) (a : Nat) (v : Byte) (ha : ∀ p ∈ m, p.1 ≠ a)
    (h : m.Pairwise (fun p q => p.1 < q.1)) : (memInsert a v m).Pairwise (fun p q => p.1 < q.1) := by
  induction m with
  | nil => simp [memInsert]
  | cons q m ih =>
    obtain ⟨hq, hm⟩ := List.pairwise_cons.1 h
    simp only [memInsert]
    split
    · rename_i haq
      refine List.pairwise_cons.2 ⟨fun p hp => ?_, h⟩
      rcases List.mem_cons.1 hp with rfl | hp
      · exact haq
      · exact Nat.lt_trans haq (hq p hp)
    · rename_i haq
      refine List.pairwise_cons.2 ⟨fun p hp => ?_, ih (fun p hp => ha p (by simp [hp])) hm⟩
      rcases mem_memInsert hp with rfl | hp
      · have := ha q (by simp)
        simp only at haq ⊢
        omega
      · exact hq p hp

/-- Every write keeps the canonical form. -/
theorem memWrite_wf {m : Memory} (h : Memory.wf m) (a v : Byte) : Memory.wf (memWrite m a.toNat v) := by
  have hf : Memory.wf (m.filter (fun p => p.1 != a.toNat)) :=
    ⟨h.1.filter _, fun p hp => h.2 p (List.mem_of_mem_filter hp)⟩
  simp only [memWrite]
  split
  · exact hf
  · rename_i hv
    refine ⟨memInsert_pairwise _ _ _ (by simp) hf.1, fun p hp => ?_⟩
    rcases mem_memInsert hp with rfl | hp
    · exact ⟨a.isLt, hv⟩
    · exact hf.2 p hp

theorem writeMem_wf {s : State} (h : Memory.wf s.mem) (a v : Byte) : Memory.wf (writeMem s a v).mem :=
  memWrite_wf h a v

/-- `load` keeps the canonical form for an image that fits. -/
theorem storeFrom_wf (image : List Byte) {m : Memory} (h : Memory.wf m) (k : Nat) (hk : k + image.length ≤ 256) :
    Memory.wf (storeFrom k image m) := by
  induction image generalizing k m with
  | nil => exact h
  | cons v vs ih =>
    simp only [List.length_cons] at hk
    have := memWrite_wf h (BitVec.ofNat 8 k) v
    rw [BitVec.toNat_ofNat, Nat.mod_eq_of_lt (by omega)] at this
    exact ih this (k + 1) (by omega)

theorem placeBytes_wf (addrs vs : List Byte) {s : State} (h : Memory.wf s.mem) :
    Memory.wf (placeBytes addrs vs s).mem := by
  induction addrs generalizing vs s with
  | nil => simpa [placeBytes] using h
  | cons a addrs ih =>
    cases vs with
    | nil => simpa [placeBytes] using h
    | cons v vs => exact ih vs (writeMem_wf h a v)

theorem loadImage_wf (image : List Byte) {s : State} (h : Memory.wf s.mem) :
    Memory.wf (loadImage image s).2.mem := by
  unfold loadImage
  split
  · rename_i hl
    exact storeFrom_wf image h 0 (by simpa [Config.memSize] using hl)
  · exact h

theorem reset_wf : Memory.wf State.reset.mem := by
  simp [State.reset, State.resetWith, Memory.wf]

end Sys2Proof.Machine
end

