-- ==== Sys2Proof/Laws/Ops.lean ====
section
/-! SUPPORT. For each shared operation, once, everything it can do. -/

namespace Sys2Proof.Machine

open Sys2Proof

/-! ## Registers -/

/-- A register write sets its register and no other (10_state R10). -/
theorem readReg_writeReg (s : State) (r q : Reg) (v : Byte) :
    readReg (writeReg s r v) q = if q = r then v else readReg s q := by
  simp only [readReg, writeReg, Fin.getElem_fin, Vector.getElem_set]
  by_cases h : q = r
  · simp [h]
  · have : r.val ≠ q.val := fun he => h (Fin.ext he.symm)
    simp [h, this]

theorem readReg_writeReg_self (s : State) (r : Reg) (v : Byte) : readReg (writeReg s r v) r = v := by
  simp [readReg_writeReg]

theorem readReg_writeReg_ne (s : State) {r q : Reg} (v : Byte) (h : q ≠ r) :
    readReg (writeReg s r v) q = readReg s q := by
  simp [readReg_writeReg, h]

/-- A memory write sets its cell and no other, seen from the state (20_memory R33). -/
theorem readMem_writeMem_eq (s : State) (a b v : Byte) :
    readMem (writeMem s a v) b = if b = a then v else readMem s b := by
  simp only [readMem, writeMem, memRead_memWrite, BitVec.toNat_inj]

/-! ## The stack pointer -/

theorem sp_decSp (s : State) : sp (decSp s) = sp s - 1#8 := readReg_writeReg_self ..

theorem sp_incSp (s : State) : sp (incSp s) = sp s + 1#8 := readReg_writeReg_self ..

theorem readReg_decSp_ne (s : State) {r : Reg} (h : r ≠ 7) : readReg (decSp s) r = readReg s r :=
  readReg_writeReg_ne s _ h

theorem readReg_incSp_ne (s : State) {r : Reg} (h : r ≠ 7) : readReg (incSp s) r = readReg s r :=
  readReg_writeReg_ne s _ h

@[simp] theorem readMem_decSp (s : State) (a : Byte) : readMem (decSp s) a = readMem s a := rfl

@[simp] theorem readMem_incSp (s : State) (a : Byte) : readMem (incSp s) a = readMem s a := rfl

/-! ## advance -/

/-- `advance` inside memory moves the program counter and nothing else (40_execution_cycle R79). -/
theorem advance_of_fits {n : Nat} {s : State} (h : s.pc.toNat + 1 + n ≤ 255) :
    advance n s = { s with pc := BitVec.ofNat 8 (s.pc.toNat + 1 + n) } := by
  simp [advance, h]

/-- `advance` past 0xFF under `fault` ends the run with the program counter unchanged (40_execution_cycle R79). -/
theorem advance_past_fault {n : Nat} {s : State} (h : ¬ s.pc.toNat + 1 + n ≤ 255) (hp : s.cfg.pcOverflow = .fault) :
    advance n s = raise (.fetchOutOfRange .successor s.pc) s := by
  simp [advance, h, hp]

/-- `advance` under `wrap` moves the program counter modulo 256 (40_execution_cycle R79). -/
theorem advance_wrap {n : Nat} {s : State} (hp : s.cfg.pcOverflow = .wrap) :
    advance n s = { s with pc := BitVec.ofNat 8 (s.pc.toNat + 1 + n) } := by
  simp [advance, hp]

/-- Everything `advance` can do: it moves the program counter, or ends the run at the top of memory. -/
theorem advance_cases (n : Nat) (s : State) :
    advance n s = { s with pc := BitVec.ofNat 8 (s.pc.toNat + 1 + n) } ∨
    (255 < s.pc.toNat + 1 + n ∧ s.cfg.pcOverflow = .fault ∧
      advance n s = raise (.fetchOutOfRange .successor s.pc) s) := by
  by_cases h : s.pc.toNat + 1 + n ≤ 255
  · exact .inl (advance_of_fits h)
  · cases hp : s.cfg.pcOverflow
    · exact .inr ⟨by omega, rfl, advance_past_fault h hp⟩
    · exact .inl (advance_wrap hp)

theorem advance_pc_toNat {n : Nat} {s : State} (h : s.pc.toNat + 1 + n ≤ 255) :
    (advance n s).pc.toNat = s.pc.toNat + 1 + n := by
  rw [advance_of_fits h]
  simp only [BitVec.toNat_ofNat]
  exact Nat.mod_eq_of_lt (by omega)

theorem advance_run_of_fits {n : Nat} {s : State} (h : s.pc.toNat + 1 + n ≤ 255) :
    (advance n s).run = s.run := by
  rw [advance_of_fits h]

/-! ## ALU shapes and branches -/

theorem aluBinary_reg (f : Byte → Byte → Byte) (a b : Reg) (s : State) (q : Reg) :
    readReg (aluBinary f a b s) q = if q = a then f (readReg s a) (readReg s b) else readReg s q :=
  readReg_writeReg ..

theorem aluUnary_reg (f : Byte → Byte) (a : Reg) (s : State) (q : Reg) :
    readReg (aluUnary f a s) q = if q = a then f (readReg s a) else readReg s q :=
  readReg_writeReg ..

@[simp] theorem readMem_aluBinary (f : Byte → Byte → Byte) (a b : Reg) (s : State) (c : Byte) :
    readMem (aluBinary f a b s) c = readMem s c := rfl

@[simp] theorem readMem_aluUnary (f : Byte → Byte) (a : Reg) (s : State) (c : Byte) :
    readMem (aluUnary f a s) c = readMem s c := rfl

/-- Everything DIV and MOD can do: raise the ALU fault, or write the destination and go on. -/
theorem aluDivide_cases (op : DivOp) (f : Byte → Byte → Byte) (a b : Reg) (s : State) :
    (readReg s b = 0#8 ∧ aluDivide op f a b s = raise (.aluFault .divisionByZero op s.pc) s) ∨
    (readReg s b ≠ 0#8 ∧ aluDivide op f a b s = advance 2 (aluBinary f a b s)) := by
  by_cases h : readReg s b = 0#8
  · exact .inl ⟨h, by simp [aluDivide, h]⟩
  · exact .inr ⟨h, by simp [aluDivide, h]⟩

/-- Everything a conditional jump can do. -/
theorem branchIf_cases (cond : Bool) (t : Target) (s : State) :
    (cond = true ∧ branchIf cond t s = jumpTo (targetValue s t) s) ∨
    (cond = false ∧ branchIf cond t s = advance 1 s) := by
  cases cond
  · exact .inr ⟨rfl, rfl⟩
  · exact .inl ⟨rfl, rfl⟩

/-! ## The step -/

/-- Everything a step that answers a next state can have done (40_execution_cycle R80). -/
theorem step_cases {s t : State} (h : step s = .next t) :
    s.run = .running ∧
    ((∃ i, decode s.cfg (fetchBytes s) = .ok i ∧ exec i s = .next t) ∨
     (∃ e, decode s.cfg (fetchBytes s) = .error e ∧ t = raise (rejectReport s.pc e) s)) := by
  unfold step at h
  split at h
  · cases h
  · rename_i hrun
    refine ⟨hrun, ?_⟩
    split at h
    · rename_i i hd
      exact .inl ⟨i, hd, h⟩
    · rename_i e hd
      exact .inr ⟨e, hd, by cases h; rfl⟩

end Sys2Proof.Machine
end

