-- ==== Sys2Proof/Laws/Decode.lean ====
section
/-! SUPPORT. The small lemmas of the decoder and the encoder. -/

namespace Sys2Proof

theorem regByte_toNat (r : Reg) : (regByte r).toNat = r.val := by
  simp only [regByte, BitVec.toNat_ofNat]
  exact Nat.mod_eq_of_lt (by omega)

/-- A register's operand byte names that register under both policies (30_encoding R55). -/
theorem regIndex_regByte (p : RegIndexPolicy) (r : Reg) : regIndex p (regByte r) = some r := by
  cases p
  · simp [regIndex, regByte_toNat]
  · simp only [regIndex, regByte_toNat, Option.some.injEq]
    exact Fin.ext (Nat.mod_eq_of_lt r.isLt)

/-- Under `fault` an operand byte that names a register is that register's byte (30_encoding R55). -/
theorem regIndex_fault_eq_some {v : Byte} {r : Reg} (h : regIndex .fault v = some r) : v = regByte r := by
  simp only [regIndex] at h
  split at h
  · cases h
    exact BitVec.eq_of_toNat_eq (by rw [regByte_toNat])
  · cases h

/-- Under `fault` an operand byte names no register exactly when it is above 7 (30_encoding R55). -/
theorem regIndex_fault_eq_none {v : Byte} : regIndex .fault v = none ↔ 8 ≤ v.toNat := by
  simp only [regIndex]
  split <;> simp <;> omega

/-- Under `mask` every operand byte names a register (30_encoding R55). -/
theorem regIndex_mask (v : Byte) : regIndex .mask v = some ⟨v.toNat % 8, Nat.mod_lt _ (by decide)⟩ := rfl

/-- An operand byte is rejected under `fault` only, and only above 7. -/
theorem regIndex_eq_none {p : RegIndexPolicy} {v : Byte} (h : regIndex p v = none) : p = .fault ∧ 8 ≤ v.toNat := by
  cases p
  · exact ⟨rfl, regIndex_fault_eq_none.1 h⟩
  · cases h

/-- A well-formed target's byte decodes to that target (44_control_flow R140). -/
theorem targetOperand_byte (c : Config) (t : Target) (h : t.wellFormed c.targetMode = true) :
    targetOperand c t.byte = some t := by
  cases t with
  | reg r =>
    have hm : c.targetMode = .reg := by simpa [Target.wellFormed] using h
    simp [targetOperand, hm, Target.byte, regIndex_regByte]
  | imm v =>
    have hm : c.targetMode = .imm := by simpa [Target.wellFormed] using h
    simp [targetOperand, hm, Target.byte]

/-- The decoder gives a target of the kind TARGET_MODE fixes (44_control_flow R140). -/
theorem targetOperand_wellFormed {c : Config} {v : Byte} {t : Target} (h : targetOperand c v = some t) :
    t.wellFormed c.targetMode = true := by
  unfold targetOperand at h
  split at h <;> rename_i hm
  · obtain ⟨r, -, rfl⟩ := Option.map_eq_some_iff.1 h
    simp [Target.wellFormed, hm]
  · cases h
    simp [Target.wellFormed, hm]

end Sys2Proof
end

