-- ==== Sys2Proof/Laws/PerInstr.lean ====
section
/-! SUPPORT. Statements about every instruction as syntax, one lemma per constructor. -/

namespace Sys2Proof.Laws

open Sys2Proof

/-- 30_encoding R50, R52, R56: the encoding is the opcode byte and as many operand bytes as its count field says, one
to three bytes in all, and the opcode is one of the table's 34. -/
def EncodingLength.Statement (i : Instr) : Prop :=
  i.encode.length = i.length ∧ i.length = 1 + opcodeCnt i.opcode ∧ 1 ≤ i.length ∧ i.length ≤ 3 ∧
    i.opcode ∈ Safety.tableOpcodes

theorem encodingLength_of_opcode {i : Instr} (op : Byte) (n : Nat) (ho : i.opcode = op)
    (hl : i.operandBytes.length = n) (hn : opcodeCnt op = n ∧ n ≤ 2) (ht : op ∈ Safety.tableOpcodes) :
    EncodingLength.Statement i := by
  subst ho
  obtain ⟨hc, h2⟩ := hn
  refine ⟨?_, rfl, ?_, ?_, ht⟩
  · simp only [Instr.encode, Instr.length, Instr.operandCount, List.length_cons, hl, hc]
    omega
  · simp only [Instr.length]
    omega
  · simp only [Instr.length, Instr.operandCount, hc]
    omega

theorem EncodingLength.nop : EncodingLength.Statement .nop :=
  encodingLength_of_opcode 0x00#8 0 rfl rfl (by decide) (by decide)

theorem EncodingLength.hlt : EncodingLength.Statement .hlt :=
  encodingLength_of_opcode 0x01#8 0 rfl rfl (by decide) (by decide)

theorem EncodingLength.ret : EncodingLength.Statement .ret :=
  encodingLength_of_opcode 0x11#8 0 rfl rfl (by decide) (by decide)

theorem EncodingLength.iret : EncodingLength.Statement .iret :=
  encodingLength_of_opcode 0x13#8 0 rfl rfl (by decide) (by decide)

theorem EncodingLength.push (a : Reg) : EncodingLength.Statement (.push a) :=
  encodingLength_of_opcode 0x45#8 1 rfl rfl (by decide) (by decide)

theorem EncodingLength.pop (a : Reg) : EncodingLength.Statement (.pop a) :=
  encodingLength_of_opcode 0x46#8 1 rfl rfl (by decide) (by decide)

theorem EncodingLength.prn (a : Reg) : EncodingLength.Statement (.prn a) :=
  encodingLength_of_opcode 0x47#8 1 rfl rfl (by decide) (by decide)

theorem EncodingLength.pra (a : Reg) : EncodingLength.Statement (.pra a) :=
  encodingLength_of_opcode 0x48#8 1 rfl rfl (by decide) (by decide)

theorem EncodingLength.call (t : Target) : EncodingLength.Statement (.call t) :=
  encodingLength_of_opcode 0x50#8 1 rfl rfl (by decide) (by decide)

theorem EncodingLength.int : EncodingLength.Statement .int :=
  encodingLength_of_opcode 0x52#8 1 rfl rfl (by decide) (by decide)

theorem EncodingLength.jmp (t : Target) : EncodingLength.Statement (.jmp t) :=
  encodingLength_of_opcode 0x54#8 1 rfl rfl (by decide) (by decide)

theorem EncodingLength.jeq (t : Target) : EncodingLength.Statement (.jeq t) :=
  encodingLength_of_opcode 0x55#8 1 rfl rfl (by decide) (by decide)

theorem EncodingLength.jne (t : Target) : EncodingLength.Statement (.jne t) :=
  encodingLength_of_opcode 0x56#8 1 rfl rfl (by decide) (by decide)

theorem EncodingLength.jgt (t : Target) : EncodingLength.Statement (.jgt t) :=
  encodingLength_of_opcode 0x57#8 1 rfl rfl (by decide) (by decide)

theorem EncodingLength.jlt (t : Target) : EncodingLength.Statement (.jlt t) :=
  encodingLength_of_opcode 0x58#8 1 rfl rfl (by decide) (by decide)

theorem EncodingLength.jle (t : Target) : EncodingLength.Statement (.jle t) :=
  encodingLength_of_opcode 0x59#8 1 rfl rfl (by decide) (by decide)

theorem EncodingLength.jge (t : Target) : EncodingLength.Statement (.jge t) :=
  encodingLength_of_opcode 0x5A#8 1 rfl rfl (by decide) (by decide)

theorem EncodingLength.inc (a : Reg) : EncodingLength.Statement (.inc a) :=
  encodingLength_of_opcode 0x65#8 1 rfl rfl (by decide) (by decide)

theorem EncodingLength.dec (a : Reg) : EncodingLength.Statement (.dec a) :=
  encodingLength_of_opcode 0x66#8 1 rfl rfl (by decide) (by decide)

theorem EncodingLength.not (a : Reg) : EncodingLength.Statement (.not a) :=
  encodingLength_of_opcode 0x69#8 1 rfl rfl (by decide) (by decide)

theorem EncodingLength.ldi (a : Reg) (b : Byte) : EncodingLength.Statement (.ldi a b) :=
  encodingLength_of_opcode 0x82#8 2 rfl rfl (by decide) (by decide)

theorem EncodingLength.ld (a b : Reg) : EncodingLength.Statement (.ld a b) :=
  encodingLength_of_opcode 0x83#8 2 rfl rfl (by decide) (by decide)

theorem EncodingLength.st (a b : Reg) : EncodingLength.Statement (.st a b) :=
  encodingLength_of_opcode 0x84#8 2 rfl rfl (by decide) (by decide)

theorem EncodingLength.add (a b : Reg) : EncodingLength.Statement (.add a b) :=
  encodingLength_of_opcode 0xA0#8 2 rfl rfl (by decide) (by decide)

theorem EncodingLength.sub (a b : Reg) : EncodingLength.Statement (.sub a b) :=
  encodingLength_of_opcode 0xA1#8 2 rfl rfl (by decide) (by decide)

theorem EncodingLength.mul (a b : Reg) : EncodingLength.Statement (.mul a b) :=
  encodingLength_of_opcode 0xA2#8 2 rfl rfl (by decide) (by decide)

theorem EncodingLength.div (a b : Reg) : EncodingLength.Statement (.div a b) :=
  encodingLength_of_opcode 0xA3#8 2 rfl rfl (by decide) (by decide)

theorem EncodingLength.mod (a b : Reg) : EncodingLength.Statement (.mod a b) :=
  encodingLength_of_opcode 0xA4#8 2 rfl rfl (by decide) (by decide)

theorem EncodingLength.cmp (a b : Reg) : EncodingLength.Statement (.cmp a b) :=
  encodingLength_of_opcode 0xA7#8 2 rfl rfl (by decide) (by decide)

theorem EncodingLength.and (a b : Reg) : EncodingLength.Statement (.and a b) :=
  encodingLength_of_opcode 0xA8#8 2 rfl rfl (by decide) (by decide)

theorem EncodingLength.or (a b : Reg) : EncodingLength.Statement (.or a b) :=
  encodingLength_of_opcode 0xAA#8 2 rfl rfl (by decide) (by decide)

theorem EncodingLength.xor (a b : Reg) : EncodingLength.Statement (.xor a b) :=
  encodingLength_of_opcode 0xAB#8 2 rfl rfl (by decide) (by decide)

theorem EncodingLength.shl (a b : Reg) : EncodingLength.Statement (.shl a b) :=
  encodingLength_of_opcode 0xAC#8 2 rfl rfl (by decide) (by decide)

theorem EncodingLength.shr (a b : Reg) : EncodingLength.Statement (.shr a b) :=
  encodingLength_of_opcode 0xAD#8 2 rfl rfl (by decide) (by decide)

end Sys2Proof.Laws
end

