-- ==== Sys2Proof/Tests/Slice0.lean ====
section
/-! SUPPORT. Tests of the model's own. Expected results are the spec's vectors (spec/95_test_vectors.md, V and E
numbers) or are written out from the rule named; each runs one step on a small state. Then a witness for the
hypotheses of every statement that has some. -/

namespace Sys2Proof.Tests

open Sys2Proof Sys2Proof.Machine Sys2Proof.Safety

/-! ## Builders -/

/-- The reset state with the bytes placed from `pc` upward and the program counter there. -/
def at0 (pc : Byte) (bytes : List Byte) : State :=
  { State.reset with pc := pc, mem := storeFrom pc.toNat bytes [] }

/-- A register set before the step. -/
def withReg (r : Reg) (v : Byte) (s : State) : State := writeReg s r v

/-- A cell set before the step. -/
def withCell (a v : Byte) (s : State) : State := writeMem s a v

/-- The flags set before the step. -/
def withFlags (e g l : Bool) (s : State) : State := { s with flags := { e := e, g := g, l := l } }

/-- A field of the next state. -/
def after {α : Type} (f : State → α) (s : State) : Option α :=
  match step s with
  | .next t => some (f t)
  | .fault _ => none
  | .refused _ => none

/-- TARGET_MODE = imm. -/
def immMode (s : State) : State := { s with cfg := { s.cfg with targetMode := .imm } }

/-- REG_INDEX_POLICY = mask. -/
def maskMode (s : State) : State := { s with cfg := { s.cfg with regIndex := .mask } }

/-- PC_OVERFLOW_POLICY = wrap. -/
def wrapMode (s : State) : State := { s with cfg := { s.cfg with pcOverflow := .wrap } }

/-! ## WellFormed: an ill-formed term for each check (44_control_flow R140) -/

theorem test_wellFormed_refuses_call :
    (Instr.call (.imm 0x40#8)).wellFormed Config.defaults = false ∧
    (Instr.call (.reg 2)).wellFormed (immMode State.reset).cfg = false ∧
    (Instr.call (.reg 2)).wellFormed Config.defaults = true := by decide

theorem test_wellFormed_refuses_jmp :
    (Instr.jmp (.imm 0x40#8)).wellFormed Config.defaults = false ∧
    (Instr.jmp (.reg 2)).wellFormed (immMode State.reset).cfg = false ∧
    (Instr.jmp (.reg 2)).wellFormed Config.defaults = true := by decide

theorem test_wellFormed_refuses_jeq :
    (Instr.jeq (.imm 0x40#8)).wellFormed Config.defaults = false ∧
    (Instr.jeq (.reg 2)).wellFormed (immMode State.reset).cfg = false ∧
    (Instr.jeq (.reg 2)).wellFormed Config.defaults = true := by decide

theorem test_wellFormed_refuses_jne :
    (Instr.jne (.imm 0x40#8)).wellFormed Config.defaults = false ∧
    (Instr.jne (.reg 2)).wellFormed (immMode State.reset).cfg = false ∧
    (Instr.jne (.reg 2)).wellFormed Config.defaults = true := by decide

theorem test_wellFormed_refuses_jgt :
    (Instr.jgt (.imm 0x40#8)).wellFormed Config.defaults = false ∧
    (Instr.jgt (.reg 2)).wellFormed (immMode State.reset).cfg = false ∧
    (Instr.jgt (.reg 2)).wellFormed Config.defaults = true := by decide

theorem test_wellFormed_refuses_jlt :
    (Instr.jlt (.imm 0x40#8)).wellFormed Config.defaults = false ∧
    (Instr.jlt (.reg 2)).wellFormed (immMode State.reset).cfg = false ∧
    (Instr.jlt (.reg 2)).wellFormed Config.defaults = true := by decide

theorem test_wellFormed_refuses_jle :
    (Instr.jle (.imm 0x40#8)).wellFormed Config.defaults = false ∧
    (Instr.jle (.reg 2)).wellFormed (immMode State.reset).cfg = false ∧
    (Instr.jle (.reg 2)).wellFormed Config.defaults = true := by decide

theorem test_wellFormed_refuses_jge :
    (Instr.jge (.imm 0x40#8)).wellFormed Config.defaults = false ∧
    (Instr.jge (.reg 2)).wellFormed (immMode State.reset).cfg = false ∧
    (Instr.jge (.reg 2)).wellFormed Config.defaults = true := by decide

/-! ## Decoding: each opcode's word written out from 30_encoding R56 -/

theorem test_decode_nop : decode Config.defaults [0b00000000#8] = .ok (.nop) := by decide

theorem test_decode_hlt : decode Config.defaults [0b00000001#8] = .ok (.hlt) := by decide

theorem test_decode_ret : decode Config.defaults [0b00010001#8] = .ok (.ret) := by decide

theorem test_decode_iret : decode Config.defaults [0b00010011#8] = .ok (.iret) := by decide

theorem test_decode_push : decode Config.defaults [0b01000101#8, 0b00000011#8] = .ok (.push 3) := by decide

theorem test_decode_pop : decode Config.defaults [0b01000110#8, 0b00000111#8] = .ok (.pop 7) := by decide

theorem test_decode_prn : decode Config.defaults [0b01000111#8, 0b00000000#8] = .ok (.prn 0) := by decide

theorem test_decode_pra : decode Config.defaults [0b01001000#8, 0b00000101#8] = .ok (.pra 5) := by decide

theorem test_decode_call : decode Config.defaults [0b01010000#8, 0b00000001#8] = .ok (.call (.reg 1)) := by decide

theorem test_decode_int : decode Config.defaults [0b01010010#8, 0b00000000#8] = .ok (.int) := by decide

theorem test_decode_jmp : decode Config.defaults [0b01010100#8, 0b00000010#8] = .ok (.jmp (.reg 2)) := by decide

theorem test_decode_jeq : decode Config.defaults [0b01010101#8, 0b00000010#8] = .ok (.jeq (.reg 2)) := by decide

theorem test_decode_jne : decode Config.defaults [0b01010110#8, 0b00000010#8] = .ok (.jne (.reg 2)) := by decide

theorem test_decode_jgt : decode Config.defaults [0b01010111#8, 0b00000010#8] = .ok (.jgt (.reg 2)) := by decide

theorem test_decode_jlt : decode Config.defaults [0b01011000#8, 0b00000010#8] = .ok (.jlt (.reg 2)) := by decide

theorem test_decode_jle : decode Config.defaults [0b01011001#8, 0b00000010#8] = .ok (.jle (.reg 2)) := by decide

theorem test_decode_jge : decode Config.defaults [0b01011010#8, 0b00000010#8] = .ok (.jge (.reg 2)) := by decide

theorem test_decode_inc : decode Config.defaults [0b01100101#8, 0b00000110#8] = .ok (.inc 6) := by decide

theorem test_decode_dec : decode Config.defaults [0b01100110#8, 0b00000110#8] = .ok (.dec 6) := by decide

theorem test_decode_not : decode Config.defaults [0b01101001#8, 0b00000010#8] = .ok (.not 2) := by decide

theorem test_decode_ldi : decode Config.defaults [0b10000010#8, 0b00000011#8, 0b11111111#8] = .ok (.ldi 3 0xFF#8) := by decide

theorem test_decode_ld : decode Config.defaults [0b10000011#8, 0b00000010#8, 0b00000000#8] = .ok (.ld 2 0) := by decide

theorem test_decode_st : decode Config.defaults [0b10000100#8, 0b00000000#8, 0b00000001#8] = .ok (.st 0 1) := by decide

theorem test_decode_add : decode Config.defaults [0b10100000#8, 0b00000000#8, 0b00000001#8] = .ok (.add 0 1) := by decide

theorem test_decode_sub : decode Config.defaults [0b10100001#8, 0b00000000#8, 0b00000001#8] = .ok (.sub 0 1) := by decide

theorem test_decode_mul : decode Config.defaults [0b10100010#8, 0b00000000#8, 0b00000001#8] = .ok (.mul 0 1) := by decide

theorem test_decode_div : decode Config.defaults [0b10100011#8, 0b00000000#8, 0b00000001#8] = .ok (.div 0 1) := by decide

theorem test_decode_mod : decode Config.defaults [0b10100100#8, 0b00000000#8, 0b00000001#8] = .ok (.mod 0 1) := by decide

theorem test_decode_cmp : decode Config.defaults [0b10100111#8, 0b00000000#8, 0b00000001#8] = .ok (.cmp 0 1) := by decide

theorem test_decode_and : decode Config.defaults [0b10101000#8, 0b00000000#8, 0b00000001#8] = .ok (.and 0 1) := by decide

theorem test_decode_or : decode Config.defaults [0b10101010#8, 0b00000000#8, 0b00000001#8] = .ok (.or 0 1) := by decide

theorem test_decode_xor : decode Config.defaults [0b10101011#8, 0b00000000#8, 0b00000001#8] = .ok (.xor 0 1) := by decide

theorem test_decode_shl : decode Config.defaults [0b10101100#8, 0b00000000#8, 0b00000001#8] = .ok (.shl 0 1) := by decide

theorem test_decode_shr : decode Config.defaults [0b10101101#8, 0b00000000#8, 0b00000001#8] = .ok (.shr 0 1) := by decide

/-- The table's numbering: the second byte is bits 15 to 8, bits from nbits upward are 0 (opcode_table.json). -/
theorem test_decodeTableWord :
    decodeTableWord 8 0x01 = some .hlt ∧ decodeTableWord 24 0x090082 = some (.ldi 0 9#8) ∧
    decodeTableWord 8 0x0A0 = some (.add 0 0) ∧ decodeTableWord 16 0x0854 = none := by decide

/-- 30_encoding R59: 34 rows, pairwise different in bits 5:0, bit 5 set on the 14 ALU rows. -/
theorem test_opcode_table :
    (tableOpcodes.map (fun op => op.toNat % 64)).Nodup ∧ (tableOpcodes.filter opcodeAlu).length = 14 ∧
    (tableOpcodes.filter opcodeSpc).length = 11 ∧ opcodeId 0xAD#8 = 13 := by decide

/-- 30_encoding R58: the walk over P9's image (95_test_vectors) stops at the undefined byte 0x9F. -/
theorem test_boundaries :
    boundaries Config.defaults 5 0 [0x82#8, 0x00#8, 0x01#8, 0x9F#8, 0x01#8] = [0] ∧
    boundaries Config.defaults 7 0 [0x82#8, 0x00#8, 0x05#8, 0xA3#8, 0x00#8, 0x01#8, 0x01#8] = [0, 3, 6] := by decide

/-! ## ALU (95_test_vectors 2.1) -/

/-- V1, wrap. -/
theorem test_add_wraps :
    after (fun t => (readReg t 0, t.pc))
      (withReg 1 0x64#8 (withReg 0 0xC8#8 (at0 0x00#8 [0xA0#8, 0x00#8, 0x01#8])))
      = some (0x2C#8, 0x03#8) := by decide

/-- V3, the same register twice. -/
theorem test_add_same_register :
    after (fun t => (readReg t 2, t.pc))
      (withReg 2 0x90#8 (at0 0x00#8 [0xA0#8, 0x02#8, 0x02#8]))
      = some (0x20#8, 0x03#8) := by decide

/-- V4, the borrow wraps. -/
theorem test_sub_borrows :
    after (fun t => (readReg t 0, t.pc))
      (withReg 1 0x0A#8 (withReg 0 0x05#8 (at0 0x00#8 [0xA1#8, 0x00#8, 0x01#8])))
      = some (0xFB#8, 0x03#8) := by decide

/-- V7, the largest product. -/
theorem test_mul_keeps_low_byte :
    after (fun t => (readReg t 0, t.pc))
      (withReg 1 0xFF#8 (withReg 0 0xFF#8 (at0 0x00#8 [0xA2#8, 0x00#8, 0x01#8])))
      = some (0x01#8, 0x03#8) := by decide

/-- V9. -/
theorem test_div_floors :
    after (fun t => (readReg t 0, t.pc))
      (withReg 1 0x07#8 (withReg 0 0xC8#8 (at0 0x00#8 [0xA3#8, 0x00#8, 0x01#8])))
      = some (0x1C#8, 0x03#8) := by decide

/-- V11, 0 / 0 faults too. -/
theorem test_div_by_zero :
    after (fun t => (readReg t 0, t.run, t.pc))
      (at0 0x00#8 [0xA3#8, 0x00#8, 0x01#8])
      = some (0x00#8, .halted (.aluFault .divisionByZero .div 0x00#8), 0x00#8) := by decide

/-- V13. -/
theorem test_mod_remainder :
    after (fun t => (readReg t 0, t.pc))
      (withReg 1 0x07#8 (withReg 0 0xC8#8 (at0 0x00#8 [0xA4#8, 0x00#8, 0x01#8])))
      = some (0x04#8, 0x03#8) := by decide

/-- V14, the destination keeps 5. -/
theorem test_mod_by_zero :
    after (fun t => (readReg t 0, t.run, t.pc))
      (withReg 0 0x05#8 (at0 0x00#8 [0xA4#8, 0x00#8, 0x01#8]))
      = some (0x05#8, .halted (.aluFault .divisionByZero .mod 0x00#8), 0x00#8) := by decide

/-- V15. -/
theorem test_inc_wraps :
    after (fun t => (readReg t 3, t.pc))
      (withReg 3 0xFF#8 (at0 0x00#8 [0x65#8, 0x03#8]))
      = some (0x00#8, 0x02#8) := by decide

/-- V17, R7 is an ordinary destination. -/
theorem test_inc_r7 :
    after (fun t => (readReg t 7, t.pc))
      (at0 0x00#8 [0x65#8, 0x07#8])
      = some (0xF5#8, 0x02#8) := by decide

/-- V16. -/
theorem test_dec_wraps :
    after (fun t => (readReg t 3, t.pc))
      (withReg 3 0x00#8 (at0 0x00#8 [0x66#8, 0x03#8]))
      = some (0xFF#8, 0x02#8) := by decide

/-- V18, 128 > 127. -/
theorem test_cmp_unsigned :
    after (fun t => (t.flags, t.pc))
      (withReg 1 0x7F#8 (withReg 0 0x80#8 (at0 0x00#8 [0xA7#8, 0x00#8, 0x01#8])))
      = some ({ e := false, g := true, l := false }, 0x03#8) := by decide

/-- V19, a stale E is cleared. -/
theorem test_cmp_clears_stale :
    after (fun t => (t.flags, t.pc))
      (withFlags true false false (withReg 1 0x02#8 (withReg 0 0x01#8 (at0 0x00#8 [0xA7#8, 0x00#8, 0x01#8]))))
      = some ({ e := false, g := false, l := true }, 0x03#8) := by decide

/-- V19b. -/
theorem test_and :
    after (fun t => (readReg t 0, t.pc))
      (withReg 1 0xAA#8 (withReg 0 0xCC#8 (at0 0x00#8 [0xA8#8, 0x00#8, 0x01#8])))
      = some (0x88#8, 0x03#8) := by decide

/-- V19c. -/
theorem test_or :
    after (fun t => (readReg t 0, t.pc))
      (withReg 1 0xAA#8 (withReg 0 0xCC#8 (at0 0x00#8 [0xAA#8, 0x00#8, 0x01#8])))
      = some (0xEE#8, 0x03#8) := by decide

/-- V19d. -/
theorem test_xor :
    after (fun t => (readReg t 0, t.pc))
      (withReg 1 0xAA#8 (withReg 0 0xCC#8 (at0 0x00#8 [0xAB#8, 0x00#8, 0x01#8])))
      = some (0x66#8, 0x03#8) := by decide

/-- V19f. -/
theorem test_not :
    after (fun t => (readReg t 2, t.pc))
      (withReg 2 0x0F#8 (at0 0x00#8 [0x69#8, 0x02#8]))
      = some (0xF0#8, 0x02#8) := by decide

/-- V19l, the amount is read before the write. -/
theorem test_shl_same_register :
    after (fun t => (readReg t 0, t.pc))
      (withReg 0 0x03#8 (at0 0x00#8 [0xAC#8, 0x00#8, 0x00#8]))
      = some (0x18#8, 0x03#8) := by decide

/-- V19j, amount 8. -/
theorem test_shl_amount_not_mod_8 :
    after (fun t => (readReg t 0, t.pc))
      (withReg 1 0x08#8 (withReg 0 0xFF#8 (at0 0x00#8 [0xAC#8, 0x00#8, 0x01#8])))
      = some (0x00#8, 0x03#8) := by decide

/-- V19n, zero enters at bit 7. -/
theorem test_shr_logical :
    after (fun t => (readReg t 0, t.pc))
      (withReg 1 0x01#8 (withReg 0 0xFF#8 (at0 0x00#8 [0xAD#8, 0x00#8, 0x01#8])))
      = some (0x7F#8, 0x03#8) := by decide

/-- V19p. -/
theorem test_shr_by_8 :
    after (fun t => (readReg t 0, t.pc))
      (withReg 1 0x08#8 (withReg 0 0xFF#8 (at0 0x00#8 [0xAD#8, 0x00#8, 0x01#8])))
      = some (0x00#8, 0x03#8) := by decide

/-! ## Data movement (95_test_vectors 2.2) -/

/-- V22, 9 is no register index. -/
theorem test_ldi_immediate_not_checked :
    after (fun t => (readReg t 0, t.pc))
      (at0 0x00#8 [0x82#8, 0x00#8, 0x09#8])
      = some (0x09#8, 0x03#8) := by decide

/-- V21. -/
theorem test_ldi_moves_sp :
    after (fun t => (readReg t 7, t.pc))
      (at0 0x00#8 [0x82#8, 0x07#8, 0x80#8])
      = some (0x80#8, 0x03#8) := by decide

/-- V23a, the address is read before the write. -/
theorem test_ld_same_register :
    after (fun t => (readReg t 1, t.pc))
      (withCell 0x40#8 0xAB#8 (withReg 1 0x40#8 (at0 0x00#8 [0x83#8, 0x01#8, 0x01#8])))
      = some (0xAB#8, 0x03#8) := by decide

/-- V23b, code is readable as data. -/
theorem test_ld_reads_code :
    after (fun t => (readReg t 0, t.pc))
      (at0 0x00#8 [0x83#8, 0x00#8, 0x01#8])
      = some (0x83#8, 0x03#8) := by decide

/-- V23c. -/
theorem test_st :
    after (fun t => (readMem t 0x80#8, readMem t 0xAB#8, t.pc))
      (withReg 1 0xAB#8 (withReg 0 0x80#8 (at0 0x00#8 [0x84#8, 0x00#8, 0x01#8])))
      = some (0xAB#8, 0x00#8, 0x03#8) := by decide

/-- V23e, the instruction in flight is unaffected. -/
theorem test_st_over_itself :
    after (fun t => (readMem t 0x00#8, t.pc))
      (withReg 1 0x01#8 (withReg 0 0x00#8 (at0 0x00#8 [0x84#8, 0x00#8, 0x01#8])))
      = some (0x01#8, 0x03#8) := by decide

/-- V24. -/
theorem test_prn :
    after (fun t => (t.out, t.pc))
      (withReg 3 0xFF#8 (at0 0x00#8 [0x47#8, 0x03#8]))
      = some ([{ kind := .prn, value := 0xFF#8 }], 0x02#8) := by decide

/-- V25. -/
theorem test_pra :
    after (fun t => (t.out, t.pc))
      (withReg 0 0x41#8 (at0 0x00#8 [0x48#8, 0x00#8]))
      = some ([{ kind := .pra, value := 0x41#8 }], 0x02#8) := by decide

/-! ## Stack (95_test_vectors 2.3) -/

/-- V32, the decremented value is stored. -/
theorem test_push_r7 :
    after (fun t => (readReg t 7, readMem t 0xF3#8, t.pc))
      (at0 0x00#8 [0x45#8, 0x07#8])
      = some (0xF3#8, 0xF3#8, 0x02#8) := by decide

/-- V34. -/
theorem test_push_wraps :
    after (fun t => (readReg t 7, readMem t 0xFF#8, t.pc))
      (withReg 7 0x00#8 (withReg 0 0x11#8 (at0 0x00#8 [0x45#8, 0x00#8])))
      = some (0xFF#8, 0x11#8, 0x02#8) := by decide

/-- V33, read, then incremented. -/
theorem test_pop_r7 :
    after (fun t => (readReg t 7, t.pc))
      (withCell 0xF4#8 0x20#8 (at0 0x00#8 [0x46#8, 0x07#8]))
      = some (0x21#8, 0x02#8) := by decide

/-- V35. -/
theorem test_pop_wraps :
    after (fun t => (readReg t 1, readReg t 7, t.pc))
      (withCell 0xFF#8 0x77#8 (withReg 7 0xFF#8 (at0 0x00#8 [0x46#8, 0x01#8])))
      = some (0x77#8, 0x00#8, 0x02#8) := by decide

/-! ## Control flow (95_test_vectors 2.4) -/

/-- V44a, a jump forms no successor. -/
theorem test_jmp_at_the_top :
    after (fun t => (t.run, t.pc))
      (withReg 2 0x10#8 (at0 0xFE#8 [0x54#8, 0x02#8]))
      = some (.running, 0x10#8) := by decide

/-- V44, the successor is out of range. -/
theorem test_jeq_falls_through_at_the_top :
    after (fun t => (t.run, t.pc))
      (withReg 2 0x10#8 (at0 0xFE#8 [0x55#8, 0x02#8]))
      = some (.halted (.fetchOutOfRange .successor 0xFE#8), 0xFE#8) := by decide

/-- R142. -/
theorem test_jeq_taken :
    after (fun t => (t.run, t.pc))
      (withFlags true false false (withReg 2 0x40#8 (at0 0x00#8 [0x55#8, 0x02#8])))
      = some (.running, 0x40#8) := by decide

/-- V43. -/
theorem test_jne_before_any_cmp :
    after (fun t => (t.run, t.pc))
      (withReg 2 0x40#8 (at0 0x00#8 [0x56#8, 0x02#8]))
      = some (.running, 0x40#8) := by decide

/-- R143, truth table. -/
theorem test_jne_not_taken :
    after (fun t => (t.run, t.pc))
      (withFlags true false false (withReg 2 0x40#8 (at0 0x00#8 [0x56#8, 0x02#8])))
      = some (.running, 0x02#8) := by decide

/-- R144, truth table. -/
theorem test_jgt_taken :
    after (fun t => (t.run, t.pc))
      (withFlags false true false (withReg 2 0x40#8 (at0 0x00#8 [0x57#8, 0x02#8])))
      = some (.running, 0x40#8) := by decide

/-- R144, truth table. -/
theorem test_jgt_not_taken_when_less :
    after (fun t => (t.run, t.pc))
      (withFlags false false true (withReg 2 0x40#8 (at0 0x00#8 [0x57#8, 0x02#8])))
      = some (.running, 0x02#8) := by decide

/-- R145, truth table. -/
theorem test_jlt_taken :
    after (fun t => (t.run, t.pc))
      (withFlags false false true (withReg 2 0x40#8 (at0 0x00#8 [0x58#8, 0x02#8])))
      = some (.running, 0x40#8) := by decide

/-- R145, truth table. -/
theorem test_jlt_not_taken_when_greater :
    after (fun t => (t.run, t.pc))
      (withFlags false true false (withReg 2 0x40#8 (at0 0x00#8 [0x58#8, 0x02#8])))
      = some (.running, 0x02#8) := by decide

/-- R146, truth table. -/
theorem test_jle_taken_when_equal :
    after (fun t => (t.run, t.pc))
      (withFlags true false false (withReg 2 0x40#8 (at0 0x00#8 [0x59#8, 0x02#8])))
      = some (.running, 0x40#8) := by decide

/-- R146, truth table. -/
theorem test_jle_not_taken_when_greater :
    after (fun t => (t.run, t.pc))
      (withFlags false true false (withReg 2 0x40#8 (at0 0x00#8 [0x59#8, 0x02#8])))
      = some (.running, 0x02#8) := by decide

/-- R147, truth table. -/
theorem test_jge_taken_when_greater :
    after (fun t => (t.run, t.pc))
      (withFlags false true false (withReg 2 0x40#8 (at0 0x00#8 [0x5A#8, 0x02#8])))
      = some (.running, 0x40#8) := by decide

/-- R147, truth table. -/
theorem test_jge_not_taken_when_less :
    after (fun t => (t.run, t.pc))
      (withFlags false false true (withReg 2 0x40#8 (at0 0x00#8 [0x5A#8, 0x02#8])))
      = some (.running, 0x02#8) := by decide

/-- V46, the return address wraps and nothing faults. -/
theorem test_call_at_the_top :
    after (fun t => (readReg t 7, readMem t 0xF3#8, t.run, t.pc))
      (withReg 1 0x30#8 (at0 0xFE#8 [0x50#8, 0x01#8]))
      = some (0xF3#8, 0x00#8, .running, 0x30#8) := by decide

/-- V46a, the target is read after the push. -/
theorem test_call_r7 :
    after (fun t => (readReg t 7, readMem t 0xF3#8, t.pc))
      (at0 0x00#8 [0x50#8, 0x07#8])
      = some (0xF3#8, 0x02#8, 0xF3#8) := by decide

/-- V47. -/
theorem test_ret :
    after (fun t => (readReg t 7, t.pc))
      (withCell 0xF3#8 0x02#8 (withReg 7 0xF3#8 (at0 0x30#8 [0x11#8])))
      = some (0xF4#8, 0x02#8) := by decide

/-- V48. -/
theorem test_ret_with_nothing_pushed :
    after (fun t => (readReg t 7, t.pc))
      (at0 0x00#8 [0x11#8])
      = some (0xF5#8, 0x00#8) := by decide

/-- V49, the operand 8 is an address. -/
theorem test_jmp_imm :
    after (fun t => (t.run, t.pc))
      (immMode (at0 0x00#8 [0x54#8, 0x08#8]))
      = some (.running, 0x08#8) := by decide

/-! ## System (95_test_vectors 2.5) -/

/-- V50. -/
theorem test_nop :
    after (fun t => (t.run, t.pc))
      (at0 0x05#8 [0x00#8])
      = some (.running, 0x06#8) := by decide

/-- V52, no successor is formed. -/
theorem test_hlt_at_the_top :
    after (fun t => (t.run, t.pc))
      (at0 0xFF#8 [0x01#8])
      = some (.halted .clean, 0xFF#8) := by decide

/-- V53. -/
theorem test_int :
    after (fun t => (t.run, readReg t 7, t.pc))
      (at0 0x00#8 [0x52#8, 0x00#8])
      = some (.halted (.unknownInstruction 0x52#8 0x00#8), 0xF4#8, 0x00#8) := by decide

/-- 45_system R162, the operand byte is not fetched. -/
theorem test_int_at_the_top :
    after (fun t => (t.run, t.pc))
      (at0 0xFF#8 [0x52#8])
      = some (.halted (.unknownInstruction 0x52#8 0xFF#8), 0xFF#8) := by decide

/-- V54, nothing is popped. -/
theorem test_iret :
    after (fun t => (t.run, readReg t 7, t.pc))
      (at0 0x00#8 [0x13#8])
      = some (.halted (.unknownInstruction 0x13#8 0x00#8), 0xF4#8, 0x00#8) := by decide

/-! ## Faults, priority, policies (95_test_vectors 2.6) -/

/-- V60c, 0xC1 shares its low six bits with HLT. -/
theorem test_unknown_opcode :
    after (fun t => (t.run, t.pc))
      (at0 0x00#8 [0xC1#8])
      = some (.halted (.unknownInstruction 0xC1#8 0x00#8), 0x00#8) := by decide

/-- V60b. -/
theorem test_unknown_opcode_with_alu_bit :
    after (fun t => (t.run, t.pc))
      (at0 0x00#8 [0xA5#8, 0x00#8, 0x00#8])
      = some (.halted (.unknownInstruction 0xA5#8 0x00#8), 0x00#8) := by decide

/-- V62. -/
theorem test_invalid_register_before_alu_fault :
    after (fun t => (t.run, t.pc))
      (at0 0x00#8 [0xA3#8, 0x00#8, 0x09#8])
      = some (.halted (.invalidRegister 0xA3#8 0x00#8 0x09#8), 0x00#8) := by decide

/-- V62a. -/
theorem test_first_bad_operand_is_reported :
    after (fun t => (t.run, t.pc))
      (at0 0x00#8 [0xA7#8, 0x10#8, 0x20#8])
      = some (.halted (.invalidRegister 0xA7#8 0x00#8 0x10#8), 0x00#8) := by decide

/-- V62b. -/
theorem test_target_register_is_checked :
    after (fun t => (t.run, t.pc))
      (at0 0x00#8 [0x54#8, 0x08#8])
      = some (.halted (.invalidRegister 0x54#8 0x00#8 0x08#8), 0x00#8) := by decide

/-- V61a, 8 and 7 = 0. -/
theorem test_mask_policy :
    after (fun t => (readReg t 0, t.pc))
      (maskMode (at0 0x00#8 [0x82#8, 0x08#8, 0x01#8]))
      = some (0x01#8, 0x03#8) := by decide

/-- V63. -/
theorem test_successor_fault :
    after (fun t => (t.run, t.pc))
      (at0 0xFF#8 [0x00#8])
      = some (.halted (.fetchOutOfRange .successor 0xFF#8), 0xFF#8) := by decide

/-- V63a. -/
theorem test_successor_wrap :
    after (fun t => (t.run, t.pc))
      (wrapMode (at0 0xFF#8 [0x00#8]))
      = some (.running, 0x00#8) := by decide

/-- V64, R0 is not written. -/
theorem test_operand_fault :
    after (fun t => (t.run, readReg t 0, t.pc))
      (at0 0xFE#8 [0x82#8, 0x00#8])
      = some (.halted (.fetchOutOfRange .operand 0xFE#8), 0x00#8, 0xFE#8) := by decide

/-- V64a, the second operand is Mem[00]. -/
theorem test_operand_wrap :
    after (fun t => (t.run, readReg t 0, t.pc))
      (withCell 0x00#8 0x05#8 (wrapMode (at0 0xFE#8 [0x82#8, 0x00#8])))
      = some (.running, 0x05#8, 0x01#8) := by decide

/-- V65. -/
theorem test_successor_fault_keeps_effects :
    after (fun t => (t.run, readReg t 1, t.pc))
      (at0 0xFD#8 [0x82#8, 0x01#8, 0x33#8])
      = some (.halted (.fetchOutOfRange .successor 0xFD#8), 0x33#8, 0xFD#8) := by decide

/-- V67: no step on a halted machine. -/
theorem test_halted_is_stuck :
    (match step (haltClean State.reset) with | .fault r => some r | _ => none) = some (.halted .clean) := by decide

/-! ## Load, run, reset (95_test_vectors 2.7), rendering -/

/-- V73: a load overwrites from 0 and leaves later cells. -/
theorem test_load_overwrites :
    (loadImage [0x82#8, 0x00#8, 0x05#8] (loadImage [0x01#8, 0x01#8, 0x01#8, 0x01#8] State.reset).2).2.mem =
      [(0, 0x82#8), (2, 0x05#8), (3, 0x01#8)] := by decide

/-- V70: 257 bytes are refused whole. -/
theorem test_load_too_large :
    loadImage (List.replicate 257 0x01#8) State.reset = (.programTooLarge, State.reset) := by
  unfold loadImage
  rw [if_neg (by rw [List.length_replicate]; decide)]

/-- P2 (E2), two steps of `run()`: LDI R0, 5 then DIV R0, R1. -/
theorem test_run_division_by_zero :
    (runFor 3 (loadImage [0x82#8, 0x00#8, 0x05#8, 0xA3#8, 0x00#8, 0x01#8, 0x01#8] State.reset).2).report =
      some (.aluFault .divisionByZero .div 0x03#8) := by decide

/-- A reset leaves HALTED (40_execution_cycle R82). -/
theorem test_reset_leaves_halted : (hostReset (haltClean State.reset)).run = .running := by decide

/-- D17: 72 is printed as its numeral, 0x48 as a character. -/
theorem test_render :
    renderEvent { kind := .prn, value := 72#8 } = "72" ∧ renderEvent { kind := .pra, value := 0x48#8 } = "H" := by
  decide

/-- R16: the layout 0b00000LGE. -/
theorem test_flagsByte :
    flagsByte { e := true, g := false, l := false } = 1#8 ∧ flagsByte { e := false, g := true, l := false } = 2#8 ∧
    flagsByte { e := false, g := false, l := true } = 4#8 := by decide

/-- R60: listings as the spec writes them. -/
theorem test_listing :
    listInstr (.ldi 0 8#8) = "LDI R0, 8" ∧ listInstr (.jmp (.reg 2)) = "JMP R2" ∧ listInstr .hlt = "HLT" := by decide

/-- `step` runs the word that `withFetchWord` placed, as the first instruction after reset. -/
theorem test_withFetchWord :
    after (fun t => (readReg t 0, t.pc)) (State.reset.withFetchWord 24 0x090082) = some (0x09#8, 0x03#8) := by decide

/-- Memory keeps its canonical form: writing the unlisted value removes the cell (20_memory R40). -/
theorem test_canonical_form :
    memWrite (memWrite (memWrite [] 5 1#8) 3 2#8) 5 0#8 = [(3, 2#8)] := by decide

/-! ## Witnesses: a state and operands that meet the hypotheses of each statement, at the edge of a range where there
is one -/

theorem witness_ResetPutsEveryPieceAtItsValue : ∃ r : Reg, r ≠ 7 := ⟨6, by decide⟩

theorem witness_LoadOverwritesCellsFromZero :
    (List.replicate 256 0x01#8).length ≤ 256 ∧ (0xFF#8).toNat < (List.replicate 256 0x01#8).length ∧
    ¬ (0x00#8).toNat < ([] : List Byte).length := by
  rw [List.length_replicate]; decide

theorem witness_OversizeImageIsRefusedWhole : (List.replicate 257 0x01#8).length > 256 := by
  rw [List.length_replicate]; decide

theorem witness_MemoryWriteChangesOneCell :
    (at0 0xFE#8 [0x50#8, 0x01#8]).pc = 0xFE#8 ∧
    ∃ t, exec (.call (.reg 1)) (at0 0xFE#8 [0x50#8, 0x01#8]) = .next t := ⟨rfl, _, rfl⟩

theorem witness_StepRunsTheDecodedInstruction :
    (at0 0xFF#8 [0x01#8]).run = .running ∧
    decode (at0 0xFF#8 [0x01#8]).cfg (fetchBytes (at0 0xFF#8 [0x01#8])) = .ok .hlt := by decide

theorem witness_FetchTakesTheBytesFromPcUpward :
    (at0 0xFD#8 []).pc.toNat + 2 ≤ 255 ∧
    ((at0 0xFE#8 []).cfg.pcOverflow = .fault ∧ (at0 0xFE#8 []).pc = 0xFE#8) ∧
    ((at0 0xFF#8 []).cfg.pcOverflow = .fault ∧ (at0 0xFF#8 []).pc = 0xFF#8) ∧
    (wrapMode (at0 0xFF#8 [])).cfg.pcOverflow = .wrap := by decide

theorem witness_HaltedMachineHasNoStep : (haltClean State.reset).run = .halted .clean := rfl

theorem witness_RunningMachineAlwaysHasANextState : State.reset.run = .running := rfl

theorem witness_RunRepeatsTheStepUntilHalted :
    (∃ t, step State.reset = .next t) ∧ (haltClean State.reset).run = .halted .clean ∧
    (runFor 1 (at0 0x00#8 [0x01#8])).report = some .clean := ⟨⟨_, rfl⟩, rfl, by decide⟩

theorem witness_OpcodeWithoutHandlerEndsTheRun :
    (at0 0xFF#8 [0x52#8]).run = .running ∧
    readMem (at0 0xFF#8 [0x52#8]) (at0 0xFF#8 [0x52#8]).pc ∉ handlerOpcodes := by decide

theorem witness_OperandBeyondTopOfMemoryFaults :
    ((at0 0xFE#8 [0x82#8, 0x00#8]).run = .running ∧ (at0 0xFE#8 [0x82#8, 0x00#8]).cfg.pcOverflow = .fault ∧
      readMem (at0 0xFE#8 [0x82#8, 0x00#8]) 0xFE#8 ∈ handlerOpcodes ∧
      (0xFE#8).toNat + (readMem (at0 0xFE#8 [0x82#8, 0x00#8]) 0xFE#8).toNat / 64 > 255) ∧
    ((at0 0xFF#8 [0x45#8]).run = .running ∧ (at0 0xFF#8 [0x45#8]).cfg.pcOverflow = .fault ∧
      readMem (at0 0xFF#8 [0x45#8]) 0xFF#8 ∈ handlerOpcodes ∧
      (0xFF#8).toNat + (readMem (at0 0xFF#8 [0x45#8]) 0xFF#8).toNat / 64 > 255) := by decide

theorem witness_RegisterOperandAboveSevenFaults :
    State.reset.run = .running ∧ State.reset.cfg.regIndex = .fault ∧ State.reset.cfg.targetMode = .reg ∧
    (0x45#8 ∈ opcodesR ∧ 8 ≤ (0x08#8).toNat ∧
      fetchBytes (at0 0x00#8 [0x45#8, 0x08#8]) = [0x45#8, 0x08#8, 0x00#8]) ∧
    (0x54#8 ∈ opcodesT ∧ fetchBytes (at0 0x00#8 [0x54#8, 0x08#8]) = [0x54#8, 0x08#8, 0x00#8]) ∧
    (0x82#8 ∈ opcodesRI ++ opcodesRR ∧
      fetchBytes (at0 0x00#8 [0x82#8, 0x08#8, 0x01#8]) = [0x82#8, 0x08#8, 0x01#8]) ∧
    (0xA3#8 ∈ opcodesRR ∧ (0x07#8).toNat < 8 ∧ 8 ≤ (0x08#8).toNat ∧
      fetchBytes (at0 0x00#8 [0xA3#8, 0x07#8, 0x08#8]) = [0xA3#8, 0x07#8, 0x08#8]) := by decide

theorem witness_MaskPolicyUsesTheLowThreeBits :
    (maskMode State.reset).cfg.regIndex = .mask ∧ (maskMode State.reset).cfg.targetMode = .reg ∧
    0xAD#8 ∈ opcodesRR ∧ 0x82#8 ∈ opcodesRI ∧ 0x69#8 ∈ opcodesR ∧ 0x5A#8 ∈ opcodesT := by decide

theorem witness_CountFieldGivesTheOperandCount :
    (0xFF#8).toNat / 64 = 3 ∧
    decode Config.defaults [0x9F#8] = .error (.unknownOpcode 0x9F#8) := by decide

theorem witness_DecodingAnEncodedInstructionGivesItBack :
    (Instr.jge (.reg 7)).wellFormed Config.defaults = true ∧
    (Instr.jge (.imm 0xFF#8)).wellFormed (immMode State.reset).cfg = true ∧
    Instr.int.wellFormed Config.defaults = true := by decide

theorem witness_DecodedInstructionIsWellFormed :
    decode Config.defaults [0x54#8, 0x07#8] = .ok (.jmp (.reg 7)) ∧
    decode (immMode State.reset).cfg [0x54#8, 0xFF#8] = .ok (.jmp (.imm 0xFF#8)) := by decide

theorem witness_DecodedBytesAreTheEncoding :
    Config.defaults.regIndex = .fault ∧ decode Config.defaults [0x52#8] = .ok .int ∧
    decode Config.defaults [0xA0#8, 0x07#8, 0x07#8] = .ok (.add 7 7) := by decide

/-- Three bytes fit at 0xFC and no further up. -/
theorem witness_fits_three : Fits 3 (at0 0xFC#8 []) ∧ ¬ Fits 3 (at0 0xFD#8 []) := by
  unfold Fits; decide

/-- Two bytes fit at 0xFD and no further up. -/
theorem witness_fits_two : Fits 2 (at0 0xFD#8 []) ∧ ¬ Fits 2 (at0 0xFE#8 []) := by
  unfold Fits; decide

theorem witness_AddSubMulWriteTheResultModulo256 : Fits 3 (at0 0xFC#8 []) := witness_fits_three.1

theorem witness_DivModWriteQuotientAndRemainder :
    Fits 3 (at0 0xFC#8 []) ∧ readReg (at0 0xFC#8 []) 7 ≠ 0#8 := ⟨witness_fits_three.1, by decide⟩

theorem witness_DivModByZeroRaiseAluFault : readReg (at0 0xFD#8 []) 1 = 0#8 := by decide

theorem witness_IncDecMoveTheRegisterByOne : Fits 2 (at0 0xFD#8 []) := witness_fits_two.1

theorem witness_CmpWritesAllThreeFlags : Fits 3 (at0 0xFC#8 []) := witness_fits_three.1

theorem witness_AndOrXorNotWorkBitByBit : Fits 3 (at0 0xFC#8 []) ∧ Fits 2 (at0 0xFD#8 []) ∧ 7 < 8 :=
  ⟨witness_fits_three.1, witness_fits_two.1, by decide⟩

theorem witness_ShiftsUseTheWholeAmount : Fits 3 (at0 0xFC#8 []) := witness_fits_three.1

theorem witness_LdiLoadsTheImmediate :
    Fits 3 (at0 0xFC#8 []) ∧ State.reset.run = .running ∧
    ∃ t, exec (.ldi 7 0xFF#8) State.reset = .next t ∧ t.run = .running :=
  ⟨witness_fits_three.1, rfl, _, rfl, by decide⟩

theorem witness_LdReadsTheAddressedCell : Fits 3 (at0 0xFC#8 []) := witness_fits_three.1

theorem witness_StWritesTheAddressedCell : Fits 3 (at0 0xFC#8 []) := witness_fits_three.1

theorem witness_StoreIsSeenByTheNextFetch :
    Fits 3 (at0 0xFC#8 []) ∧ readReg (withReg 0 0xFF#8 (at0 0xFC#8 [])) 0 = (at0 0xFC#8 []).pc + 3#8 ∧
    ∃ t, exec (.st 0 1) (withReg 0 0xFF#8 (at0 0xFC#8 [])) = .next t :=
  ⟨witness_fits_three.1, by decide, _, rfl⟩

theorem witness_PrnPraAppendOneEvent : Fits 2 (at0 0xFD#8 []) := witness_fits_two.1

theorem witness_PushStoresBelowTheStackPointer : Fits 2 (at0 0xFD#8 []) := witness_fits_two.1

theorem witness_PopLoadsFromTheStackPointer :
    Fits 2 (at0 0xFD#8 []) ∧ (∃ a : Reg, a ≠ 7) ∧ ∃ a : Reg, a = 7 :=
  ⟨witness_fits_two.1, ⟨0, by decide⟩, 7, rfl⟩

theorem witness_PushThenPopCopiesTheRegister :
    Fits 4 (at0 0xFB#8 []) ∧ (6 : Reg) ≠ 7 ∧ (0 : Reg) ≠ 7 := by
  unfold Fits; decide

theorem witness_ConditionalJumpsBranchWhenTheirConditionHolds :
    (withFlags true false false State.reset).flags.e = true ∧ State.reset.flags.e = false ∧
    (withFlags false true false State.reset).flags.g = true ∧
    (withFlags false false true State.reset).flags.l = true := by decide

theorem witness_ConditionalJumpsFallThroughOtherwise :
    Fits 2 (at0 0xFD#8 []) ∧ (at0 0xFD#8 []).flags.e = false ∧ (at0 0xFD#8 []).flags.g = false ∧
    (at0 0xFD#8 []).flags.l = false ∧ Fits 2 (withFlags true false false (at0 0xFD#8 [])) ∧
    (withFlags true false false (at0 0xFD#8 [])).flags.e = true := by
  unfold Fits; decide

theorem witness_CallPushesTheReturnAddressAndJumps :
    (∃ (tg : Target) (v : Byte), tg = .imm v) ∧ ∃ (tg : Target) (r : Reg), tg = .reg r ∧ r = 7 :=
  ⟨⟨_, 0xFF#8, rfl⟩, _, 7, rfl, rfl⟩

theorem witness_RetPopsTheProgramCounter :
    ∃ t u, exec (.call (.reg 1)) State.reset = .next t ∧ readReg u 7 = readReg t 7 ∧
      readMem u (readReg t 7) = readMem t (readReg t 7) := ⟨_, _, rfl, rfl, rfl⟩

theorem witness_NopOnlyAdvances :
    Fits 1 (at0 0xFE#8 []) ∧
    ((at0 0xFF#8 []).pc = 0xFF#8 ∧ (at0 0xFF#8 []).cfg.pcOverflow = .fault) ∧
    ((wrapMode (at0 0xFF#8 [])).pc = 0xFF#8 ∧ (wrapMode (at0 0xFF#8 [])).cfg.pcOverflow = .wrap) ∧
    (State.reset.run = .running ∧ readMem State.reset State.reset.pc = 0x00#8) := by
  unfold Fits; decide

theorem witness_SuccessorBeyondTopEndsTheRunAfterTheEffect :
    continues (at0 0xFE#8 []) (.push 7) = true ∧ (at0 0xFE#8 []).cfg.pcOverflow = .fault ∧
    (at0 0xFE#8 []).pc.toNat + (Instr.push 7).length > 255 := by decide

theorem witness_WrapPolicyContinuesModulo256 :
    continues (wrapMode (at0 0xFF#8 [])) (.div 0 7) = true ∧
    (wrapMode (at0 0xFF#8 [])).cfg.pcOverflow = .wrap := by decide

theorem witness_OnlyCmpWritesTheFlags :
    (∃ t, exec (.add 0 1) State.reset = .next t) ∧ ∀ a b : Reg, Instr.add 0 1 ≠ .cmp a b :=
  ⟨⟨_, rfl⟩, fun _ _ h => by cases h⟩

theorem witness_OnlyStPushCallWriteMemory : ∃ t, exec (.push 0) State.reset = .next t := ⟨_, rfl⟩

theorem witness_InstructionsWriteOnlyTheirRegisters : ∃ t, exec (.pop 0) State.reset = .next t := ⟨_, rfl⟩

theorem witness_OutputIsAppendOnly :
    ∃ t, step (at0 0x00#8 [0x47#8, 0x00#8]) = .next t ∧ t.out = [{ kind := .prn, value := 0x00#8 }] :=
  ⟨_, rfl, by decide⟩

theorem witness_CleanHaltComesOnlyFromHlt :
    ∃ t, step (at0 0x00#8 [0x01#8]) = .next t ∧ t.run = .halted .clean := ⟨_, rfl, by decide⟩

theorem witness_FaultsArePrecise :
    ∃ t, step (at0 0x00#8 [0x13#8]) = .next t ∧ t.run = .halted (.unknownInstruction 0x13#8 0x00#8) ∧
      ∀ a : Byte, Report.unknownInstruction 0x13#8 0x00#8 ≠ .fetchOutOfRange .successor a :=
  ⟨_, rfl, by decide, fun _ h => by cases h⟩

theorem witness_ParametersNeverChange : ∃ t, step State.reset = .next t := ⟨_, rfl⟩

theorem witness_StepKeepsMemoryCanonical :
    Memory.wf State.reset.mem ∧ ∃ t, step State.reset = .next t := ⟨reset_wf, _, rfl⟩

theorem witness_StepKeepsFlagsExclusive :
    FlagsExclusive State.reset ∧ ∃ t, step State.reset = .next t :=
  ⟨by unfold FlagsExclusive; decide, _, rfl⟩

theorem witness_StepLeavesAFittingReport :
    ∃ t, step (at0 0x00#8 [0x01#8]) = .next t ∧ t.run ≠ .running := ⟨_, rfl, by decide⟩

end Sys2Proof.Tests
end

section
/-! PROOFS. The statements about the registers (10_state). -/

namespace Sys2Proof.Proofs

open Sys2Proof.Machine

/-- The stack pointer is an alias of R7, no register beside the eight (10_state R10, R17). -/
theorem sp_eq_readReg_seven (s : State) : sp s = readReg s 7 := rfl

/-- Settles O5, by the read-after-write rule of the register file and the definition of the stack pointer. -/
theorem everyRegisterReadsBackWhatIsWritten : Obligations.EveryRegisterReadsBackWhatIsWritten :=
  ⟨readReg_writeReg, sp_eq_readReg_seven⟩

end Sys2Proof.Proofs
end

section
/-! PROOFS. The statements about memory (20_memory). -/

namespace Sys2Proof.Proofs

open Sys2Proof.Machine

theorem readMem_writeMem_self (s : State) (a v : Byte) : readMem (writeMem s a v) a = v := by
  simp [readMem_writeMem_eq]

/-- The state between CALL's push and its jump: the stack pointer is down by one and its cell holds the return
address (44_control_flow R148). -/
def pushReturn (s : State) : State := writeMem (decSp s) (sp (decSp s)) (s.pc + 2#8)

/-- CALL pushes the return address, then jumps to the target evaluated after the push (44_control_flow R148). -/
theorem exec_call (tg : Target) (s : State) :
    exec (.call tg) s = .next (jumpTo (targetValue (pushReturn s) tg) (pushReturn s)) := rfl

/-- The push leaves the return address in the cell at the new stack pointer (44_control_flow R148). -/
theorem readMem_pushReturn_sp (s : State) : readMem (pushReturn s) (readReg (pushReturn s) 7) = s.pc + 2#8 :=
  readMem_writeMem_self ..

/-- After CALL the cell at the stack pointer holds the return address modulo 256, whatever the target
(20_memory R33, 44_control_flow R148). -/
theorem exec_call_stores_return_address {tg : Target} {s t : State} (h : exec (.call tg) s = .next t) :
    readMem t (readReg t 7) = s.pc + 2#8 := by
  rw [exec_call] at h
  cases h
  rw [readMem_jumpTo, readReg_jumpTo, readMem_pushReturn_sp]

/-- Settles O4: the cells by the read-after-write rule of memory, the frame by the definition of the write, and the
CALL at 0xFE by what CALL stores, since 0xFE + 2 is 0 modulo 256. -/
theorem memoryWriteChangesOneCell : Obligations.MemoryWriteChangesOneCell := by
  intro s a v
  refine ⟨fun b => readMem_writeMem_eq s a b v, writeMem_regs .., writeMem_pc .., writeMem_flags .., writeMem_out ..,
    ⟨writeMem_run .., writeMem_cfg ..⟩, fun n => ?modulo, fun tg t hpc h => ?callAtFE⟩
  case modulo => rw [readMem_writeMem_self, BitVec.toNat_ofNat]
  case callAtFE =>
    have hret : readMem t (readReg t 7) = 0xFE#8 + 2#8 := hpc ▸ exec_call_stores_return_address h
    simpa using hret

end Sys2Proof.Proofs
end

section
/-! PROOFS. The statements about the encoding (30_encoding). -/

namespace Sys2Proof.Proofs

open Sys2Proof.Laws Sys2Proof.Safety

/-! ## The count field -/

/-- The per-instruction lemmas put together (30_encoding R50, R52, R56). -/
theorem encodingLength : ∀ i : Instr, EncodingLength.Statement i
  | .nop => EncodingLength.nop
  | .hlt => EncodingLength.hlt
  | .ret => EncodingLength.ret
  | .iret => EncodingLength.iret
  | .push a => EncodingLength.push a
  | .pop a => EncodingLength.pop a
  | .prn a => EncodingLength.prn a
  | .pra a => EncodingLength.pra a
  | .call t => EncodingLength.call t
  | .int => EncodingLength.int
  | .jmp t => EncodingLength.jmp t
  | .jeq t => EncodingLength.jeq t
  | .jne t => EncodingLength.jne t
  | .jgt t => EncodingLength.jgt t
  | .jlt t => EncodingLength.jlt t
  | .jle t => EncodingLength.jle t
  | .jge t => EncodingLength.jge t
  | .inc a => EncodingLength.inc a
  | .dec a => EncodingLength.dec a
  | .not a => EncodingLength.not a
  | .ldi a b => EncodingLength.ldi a b
  | .ld a b => EncodingLength.ld a b
  | .st a b => EncodingLength.st a b
  | .add a b => EncodingLength.add a b
  | .sub a b => EncodingLength.sub a b
  | .mul a b => EncodingLength.mul a b
  | .div a b => EncodingLength.div a b
  | .mod a b => EncodingLength.mod a b
  | .cmp a b => EncodingLength.cmp a b
  | .and a b => EncodingLength.and a b
  | .or a b => EncodingLength.or a b
  | .xor a b => EncodingLength.xor a b
  | .shl a b => EncodingLength.shl a b
  | .shr a b => EncodingLength.shr a b

/-- No opcode of the table has a count field of 3 (30_encoding R52). -/
theorem opcodeCnt_le_two_of_mem_tableOpcodes : ∀ op ∈ tableOpcodes, opcodeCnt op ≤ 2 := by decide

/-- The count field of an instruction's opcode is its number of operand bytes (30_encoding R52). -/
theorem length_operandBytes (i : Instr) : i.operandBytes.length = opcodeCnt i.opcode := by
  obtain ⟨hlen, hcnt, -⟩ := encodingLength i
  rw [hcnt, Instr.encode, List.length_cons] at hlen
  omega

/-! ## Which opcodes the decoder rejects

Past the lookup a format rejects only for its operands, so the decoder answers `unknownOpcode` exactly outside the
table (30_encoding R57). -/

section
variable (c : Config) (op op' : Byte) (args : List Byte)

@[simp] theorem decodeR_ne_unknownOpcode (mk : Reg → Instr) : decodeR c op mk args ≠ .error (.unknownOpcode op') := by
  unfold decodeR
  split
  · split <;> simp
  · simp

@[simp] theorem decodeT_ne_unknownOpcode (mk : Target → Instr) :
    decodeT c op mk args ≠ .error (.unknownOpcode op') := by
  unfold decodeT
  split
  · split <;> simp
  · simp

@[simp] theorem decodeRR_ne_unknownOpcode (mk : Reg → Reg → Instr) :
    decodeRR c op mk args ≠ .error (.unknownOpcode op') := by
  unfold decodeRR
  split
  · split
    · simp
    · split <;> simp
  · simp

@[simp] theorem decodeRI_ne_unknownOpcode (mk : Reg → Byte → Instr) :
    decodeRI c op mk args ≠ .error (.unknownOpcode op') := by
  unfold decodeRI
  split
  · split <;> simp
  · simp

/-- The lookup alone decides whether an opcode is undefined: what follows it does not matter (30_encoding R57). -/
theorem decode_eq_unknownOpcode_iff :
    decode c (op :: args) = .error (.unknownOpcode op) ↔ op ∉ tableOpcodes := by
  rw [decode]
  unfold decodeOp
  split
  -- `h_35` is the lookup's default row; the 34 before it are those of the table
  case h_35 => simp_all [tableOpcodes, handlerOpcodes, opcodesN, opcodesR, opcodesT, opcodesRI, opcodesRR]
  all_goals exact iff_of_false (by simp) (by decide)

end

/-- Settles O16: the count by the length of each encoding, the other two clauses by the lookup being the table's, which
has no opcode with a count of 3. -/
theorem countFieldGivesTheOperandCount : Obligations.CountFieldGivesTheOperandCount := by
  refine ⟨fun i => ⟨length_operandBytes i, ?atMostTwo⟩, fun c op rest h3 => ?bothBits, fun c op rest rest' h => ?tail⟩
  case atMostTwo =>
    obtain ⟨-, -, -, -, hmem⟩ := encodingLength i
    exact opcodeCnt_le_two_of_mem_tableOpcodes _ hmem
  case bothBits =>
    refine (decode_eq_unknownOpcode_iff c op rest).2 fun hmem => ?_
    have hcnt : op.toNat / 64 ≤ 2 := opcodeCnt_le_two_of_mem_tableOpcodes op hmem
    omega
  case tail => exact (decode_eq_unknownOpcode_iff c op rest').2 ((decode_eq_unknownOpcode_iff c op rest).1 h)

end Sys2Proof.Proofs
end

section
/-! PROOFS. The statements about the ALU instructions (41_alu). -/

namespace Sys2Proof.Proofs

open Sys2Proof.Machine Sys2Proof.Safety

/-! ## What an instruction that continues inside memory leaves alone (40_execution_cycle R79) -/

theorem progressedBy_advance {n : Nat} {s : State} (h : Fits (n + 1) s) : ProgressedBy (n + 1) s (advance n s) := by
  unfold Fits at h
  unfold ProgressedBy
  rw [advance_pc_toNat (by omega)]
  omega

theorem sameRun_advance {n : Nat} {s : State} (h : Fits (n + 1) s) : SameRun s (advance n s) := by
  unfold Fits at h
  exact ⟨advance_run_of_fits (by omega), advance_cfg ..⟩

/-- The frame of every instruction that writes one register and goes on to its successor. -/
theorem writeReg_advance_frame {n : Nat} {s : State} (a : Reg) (v : Byte) (h : Fits (n + 1) s) :
    OnlyRegsChange [a] s (advance n (writeReg s a v)) ∧ ProgressedBy (n + 1) s (advance n (writeReg s a v)) := by
  have hw : Fits (n + 1) (writeReg s a v) := h
  refine ⟨⟨fun r hr => ?regs, fun c _ => ?cells, advance_flags .., advance_out .., sameRun_advance hw⟩,
    progressedBy_advance hw⟩
  case regs => rw [readReg_advance, readReg_writeReg_ne s v (List.ne_of_not_mem_cons hr)]
  case cells => rw [readMem_advance, readMem_writeReg]

/-- The frame of the two-register ALU instructions (41_alu R100). -/
theorem aluBinary_advance_frame (f : Byte → Byte → Byte) (a b : Reg) {s : State} (h : Fits 3 s) :
    OnlyRegsChange [a] s (advance 2 (aluBinary f a b s)) ∧ ProgressedBy 3 s (advance 2 (aluBinary f a b s)) :=
  writeReg_advance_frame a _ h

/-- The frame of the one-register ALU instructions (41_alu R106, R107, R112). -/
theorem aluUnary_advance_frame (f : Byte → Byte) (a : Reg) {s : State} (h : Fits 2 s) :
    OnlyRegsChange [a] s (advance 1 (aluUnary f a s)) ∧ ProgressedBy 2 s (advance 1 (aluUnary f a s)) :=
  writeReg_advance_frame a _ h

/-! ## What the destination register holds -/

@[simp] theorem readReg_aluBinary_self (f : Byte → Byte → Byte) (a b : Reg) (s : State) :
    readReg (aluBinary f a b s) a = f (readReg s a) (readReg s b) :=
  readReg_writeReg_self ..

@[simp] theorem readReg_aluUnary_self (f : Byte → Byte) (a : Reg) (s : State) :
    readReg (aluUnary f a s) a = f (readReg s a) :=
  readReg_writeReg_self ..

theorem toNat_aluAdd (x y : Byte) : (aluAdd x y).toNat = (x.toNat + y.toNat) % 256 := BitVec.toNat_add ..

/-- The difference modulo 256, with the borrow written as 256 added before the subtraction (41_alu R102). -/
theorem toNat_aluSub (x y : Byte) : (aluSub x y).toNat = (x.toNat + 256 - y.toNat) % 256 := by
  rw [aluSub, BitVec.toNat_sub]
  have hy := y.isLt
  congr 1
  omega

theorem toNat_aluMul (x y : Byte) : (aluMul x y).toNat = x.toNat * y.toNat % 256 := BitVec.toNat_mul ..

theorem toNat_aluInc (x : Byte) : (aluInc x).toNat = (x.toNat + 1) % 256 := BitVec.toNat_add ..

/-- One less modulo 256 is 255 more (41_alu R107). -/
theorem toNat_aluDec (x : Byte) : (aluDec x).toNat = (x.toNat + 255) % 256 := toNat_aluSub x 1#8

theorem toNat_aluNot (x : Byte) : (aluNot x).toNat = 255 - x.toNat := BitVec.toNat_not

theorem getLsbD_aluAnd (x y : Byte) (k : Nat) : (aluAnd x y).getLsbD k = (x.getLsbD k && y.getLsbD k) :=
  BitVec.getLsbD_and

theorem getLsbD_aluOr (x y : Byte) (k : Nat) : (aluOr x y).getLsbD k = (x.getLsbD k || y.getLsbD k) :=
  BitVec.getLsbD_or

theorem getLsbD_aluXor (x y : Byte) (k : Nat) : (aluXor x y).getLsbD k = (x.getLsbD k ^^ y.getLsbD k) :=
  BitVec.getLsbD_xor

/-! ## The obligations

Each instruction's meaning is its shape followed by `advance`, so each part needs the value of its operation and the
frame of its shape. -/

/-- Settles O21, by the value of each operation modulo 256 and the frame of the two-register shape. -/
theorem addSubMulWriteTheResultModulo256 : Obligations.AddSubMulWriteTheResultModulo256 := by
  refine ⟨fun a b => ⟨rfl, rfl, rfl⟩, fun s a b hfits => ⟨⟨_, rfl, ?add, aluBinary_advance_frame aluAdd a b hfits⟩,
    ⟨_, rfl, ?sub, aluBinary_advance_frame aluSub a b hfits⟩,
    ⟨_, rfl, ?mul, aluBinary_advance_frame aluMul a b hfits⟩⟩⟩
  case add => rw [readReg_advance, readReg_aluBinary_self, toNat_aluAdd]
  case sub => rw [readReg_advance, readReg_aluBinary_self, toNat_aluSub]
  case mul => rw [readReg_advance, readReg_aluBinary_self, toNat_aluMul]

/-- Settles O24, by the value of each operation modulo 256 and the frame of the one-register shape. -/
theorem incDecMoveTheRegisterByOne : Obligations.IncDecMoveTheRegisterByOne := by
  refine ⟨fun a => ⟨rfl, rfl⟩, fun s a hfits => ⟨⟨_, rfl, ?inc, aluUnary_advance_frame aluInc a hfits⟩,
    ⟨_, rfl, ?dec, aluUnary_advance_frame aluDec a hfits⟩⟩⟩
  case inc => rw [readReg_advance, readReg_aluUnary_self, toNat_aluInc]
  case dec => rw [readReg_advance, readReg_aluUnary_self, toNat_aluDec]

/-- Settles O26, by the bits of each two-register operation, the value of the complement, and the frames of the two
shapes. -/
theorem andOrXorNotWorkBitByBit : Obligations.AndOrXorNotWorkBitByBit := by
  refine ⟨fun a b => ⟨rfl, rfl, rfl, rfl⟩, fun s a b hfits =>
    ⟨⟨_, rfl, fun k _ => ?and, aluBinary_advance_frame aluAnd a b hfits⟩,
    ⟨_, rfl, fun k _ => ?or, aluBinary_advance_frame aluOr a b hfits⟩,
    ⟨_, rfl, fun k _ => ?xor, aluBinary_advance_frame aluXor a b hfits⟩⟩,
    fun s a hfits => ⟨_, rfl, ?not, aluUnary_advance_frame aluNot a hfits⟩⟩
  case and => rw [readReg_advance, readReg_aluBinary_self, getLsbD_aluAnd]
  case or => rw [readReg_advance, readReg_aluBinary_self, getLsbD_aluOr]
  case xor => rw [readReg_advance, readReg_aluBinary_self, getLsbD_aluXor]
  case not => rw [readReg_advance, readReg_aluUnary_self, toNat_aluNot]

end Sys2Proof.Proofs
end

section
/-! PROOFS. The statements about data movement and output (42_data_movement). -/

namespace Sys2Proof.Proofs

open Sys2Proof.Machine

/-- LDI writes the immediate as it stands and goes on to its successor (42_data_movement R120). -/
theorem exec_ldi (a : Reg) (b : Byte) (s : State) : exec (.ldi a b) s = .next (advance 2 (writeReg s a b)) := rfl

/-- PRN emits the register's content and goes on to its successor (42_data_movement R123). -/
theorem exec_prn (a : Reg) (s : State) :
    exec (.prn a) s = .next (advance 1 (emit .prn (readReg s a) s)) := rfl

/-- After LDI the register holds the immediate, also where the successor is beyond the top of memory
(42_data_movement R120, 40_execution_cycle R79). -/
theorem readReg_after_ldi (s : State) (a : Reg) (b : Byte) : readReg (advance 2 (writeReg s a b)) a = b := by
  rw [readReg_advance, readReg_writeReg_self]

/-- Settles O28: the value by the read-after-write rule of the register file, the frame by that of a register write,
and the printed event because LDI leaves the output alone. -/
theorem ldiLoadsTheImmediate : Obligations.LdiLoadsTheImmediate := by
  refine ⟨fun a b => rfl,
    fun s a b hfits => ⟨_, exec_ldi a b s, readReg_after_ldi s a b, writeReg_advance_frame a b hfits⟩,
    fun s t a b _ hldi _ => ⟨_, exec_prn a t, ?printed⟩⟩
  case printed =>
    rw [exec_ldi] at hldi
    cases hldi
    rw [advance_out, emit_out, readReg_after_ldi, advance_out, writeReg_out]

end Sys2Proof.Proofs
end

section
/-! PROOFS. The statements about control flow (44_control_flow). -/

namespace Sys2Proof.Proofs

open Sys2Proof.Machine Sys2Proof.Safety

/-- RET jumps to the byte in the cell at R7, read before R7 goes up by one (44_control_flow R149). -/
theorem exec_ret (s : State) : exec .ret s = .next (jumpTo (readMem s (readReg s 7)) (incSp s)) := rfl

theorem readReg_incSp_seven (s : State) : readReg (incSp s) 7 = readReg s 7 + 1#8 := sp_incSp s

/-- CALL leaves R7 one lower, whatever the target (44_control_flow R148). -/
theorem exec_call_decrements_seven {tg : Target} {s t : State} (h : exec (.call tg) s = .next t) :
    readReg t 7 = readReg s 7 - 1#8 := by
  rw [exec_call] at h
  cases h
  rw [readReg_jumpTo, pushReturn, readReg_writeMem]
  exact sp_decSp s

/-- The frame of RET: only R7 and the program counter change (44_control_flow R149). -/
theorem incSp_jumpTo_frame (s : State) (a : Byte) : OnlyRegsChange [7] s (jumpTo a (incSp s)) := by
  refine ⟨fun r hr => ?regs, fun c _ => ?cells, incSp_flags s, incSp_out s, incSp_run s, incSp_cfg s⟩
  case regs => rw [readReg_jumpTo, readReg_incSp_ne s (List.ne_of_not_mem_cons hr)]
  case cells => rw [readMem_jumpTo, readMem_incSp]

/-- Settles O40: a single RET by the rules of its pop, and the return from a CALL because the popped cell holds the
return address CALL stored and the increment undoes CALL's decrement of R7. -/
theorem retPopsTheProgramCounter : Obligations.RetPopsTheProgramCounter := by
  refine ⟨rfl, fun s => ⟨_, exec_ret s, jumpTo_pc .., ?increment, incSp_jumpTo_frame s _⟩,
    fun s t u tg hcall hsp hcell => ⟨_, exec_ret u, ?returnAddress, ?restored⟩⟩
  case increment => rw [readReg_jumpTo, readReg_incSp_seven, BitVec.toNat_add, BitVec.toNat_ofNat]
  case returnAddress => rw [jumpTo_pc, hsp, hcell, exec_call_stores_return_address hcall]
  case restored =>
    rw [readReg_jumpTo, readReg_incSp_seven, hsp, exec_call_decrements_seven hcall, BitVec.sub_add_cancel]

end Sys2Proof.Proofs
end

section
/-! PROOFS. The statements about the system instructions (45_system). -/

namespace Sys2Proof.Proofs

open Sys2Proof.Machine

/-- HLT ends the run with the clean report and does nothing else (45_system R161). -/
theorem exec_hlt (s : State) : exec .hlt s = .next (haltClean s) := rfl

theorem report_haltClean (s : State) : (haltClean s).report = some .clean := rfl

/-- A machine that has halted, clean or by a fault, executes no further instruction (40_execution_cycle R82). -/
theorem step_ne_next_of_halted {s : State} {r : Report} (h : s.run = .halted r) (u : State) :
    step s ≠ .next u := by
  intro hstep
  obtain ⟨hrunning, -⟩ := step_cases hstep
  rw [h] at hrunning
  cases hrunning

/-- Settles O42: the state and its report by what HLT does, and no further instruction because only a RUNNING machine
has a next state. -/
theorem hltHaltsClean : Obligations.HltHaltsClean :=
  ⟨rfl, fun s => ⟨haltClean s, exec_hlt s, rfl, report_haltClean s, step_ne_next_of_halted (haltClean_run s)⟩⟩

end Sys2Proof.Proofs
end

section
/-! PROOFS. The statements about reset and load (70_reset_and_hazards). -/

namespace Sys2Proof.Proofs

open Sys2Proof.Machine

/-- `load` takes its refusing branch for an image that has more bytes than memory has cells
(70_reset_and_hazards R193). -/
theorem loadImage_of_memSize_lt_length {image : List Byte} (h : Config.memSize < image.length) (s : State) :
    loadImage image s = (.programTooLarge, s) :=
  if_neg (Nat.not_le_of_gt h)

/-- Settles O3: an image of more than 256 bytes has more bytes than memory has cells, so `load` refuses it. -/
theorem oversizeImageIsRefusedWhole : Obligations.OversizeImageIsRefusedWhole :=
  fun _ s h => loadImage_of_memSize_lt_length h s

end Sys2Proof.Proofs
end

section
/-! PROOFS. The decoder by the rows of the opcode table: how the opcodes of each format are decoded (30_encoding R50,
R56), and from that everything the decoder can answer. -/

namespace Sys2Proof.Proofs

open Sys2Proof.Safety

/-! ## Operands -/

/-- Under `fault` a byte that names a target is that target's operand byte (44_control_flow R140). -/
theorem targetOperand_fault_eq_some {c : Config} {v : Byte} {t : Target} (hc : c.regIndex = .fault)
    (h : targetOperand c v = some t) : v = t.byte := by
  unfold targetOperand at h
  split at h
  · rw [hc] at h
    obtain ⟨r, hr, rfl⟩ := Option.map_eq_some_iff.1 h
    exact regIndex_fault_eq_some hr
  · cases h
    rfl

theorem targetOperand_reg {c : Config} (hc : c.targetMode = .reg) (v : Byte) :
    targetOperand c v = (regIndex c.regIndex v).map .reg := by
  simp only [targetOperand, hc]

/-- A target byte is rejected as a register index is: under `fault` only, and only above 7. -/
theorem targetOperand_eq_none {c : Config} {v : Byte} (h : targetOperand c v = none) :
    c.regIndex = .fault ∧ 8 ≤ v.toNat := by
  unfold targetOperand at h
  split at h
  · exact regIndex_eq_none (Option.map_eq_none_iff.1 h)
  · cases h

/-! ## The formats -/

/-- The rejections that a format of `n` operands can give for the bytes `args` (40_execution_cycle R75, R76). -/
def OperandReject (c : Config) (op : Byte) (n : Nat) (args : List Byte) (e : Reject) : Prop :=
  (e = .truncated ∧ args.length < n) ∨
    ∃ v : Byte, e = .invalidRegister op v ∧ c.regIndex = .fault ∧ 8 ≤ v.toNat

section
variable {c : Config} {op v w : Byte} {args rest : List Byte} {i : Instr} {e : Reject}

theorem decodeR_eq_ok {mk : Reg → Instr} (h : decodeR c op mk args = .ok i) :
    ∃ v rest a, args = v :: rest ∧ regIndex c.regIndex v = some a ∧ i = mk a := by
  unfold decodeR at h
  split at h
  next v rest =>
    split at h
    next a ha =>
      cases h
      exact ⟨v, rest, a, rfl, ha, rfl⟩
    next => cases h
  next => cases h

theorem decodeT_eq_ok {mk : Target → Instr} (h : decodeT c op mk args = .ok i) :
    ∃ v rest t, args = v :: rest ∧ targetOperand c v = some t ∧ i = mk t := by
  unfold decodeT at h
  split at h
  next v rest =>
    split at h
    next t ht =>
      cases h
      exact ⟨v, rest, t, rfl, ht, rfl⟩
    next => cases h
  next => cases h

theorem decodeRI_eq_ok {mk : Reg → Byte → Instr} (h : decodeRI c op mk args = .ok i) :
    ∃ v w rest a, args = v :: w :: rest ∧ regIndex c.regIndex v = some a ∧ i = mk a w := by
  unfold decodeRI at h
  split at h
  next v w rest =>
    split at h
    next => cases h
    next a ha =>
      cases h
      exact ⟨v, w, rest, a, rfl, ha, rfl⟩
  next => cases h

theorem decodeRR_eq_ok {mk : Reg → Reg → Instr} (h : decodeRR c op mk args = .ok i) :
    ∃ v w rest a b, args = v :: w :: rest ∧ regIndex c.regIndex v = some a ∧ regIndex c.regIndex w = some b ∧
      i = mk a b := by
  unfold decodeRR at h
  split at h
  next v w rest =>
    split at h
    next => cases h
    next a ha =>
      split at h
      next => cases h
      next b hb =>
        cases h
        exact ⟨v, w, rest, a, b, rfl, ha, hb, rfl⟩
  next => cases h

theorem decodeR_eq_error {mk : Reg → Instr} (h : decodeR c op mk args = .error e) : OperandReject c op 1 args e := by
  unfold decodeR at h
  split at h
  next v rest =>
    split at h
    next => cases h
    next hv =>
      cases h
      exact .inr ⟨v, rfl, regIndex_eq_none hv⟩
  next =>
    cases h
    exact .inl ⟨rfl, Nat.one_pos⟩

theorem decodeT_eq_error {mk : Target → Instr} (h : decodeT c op mk args = .error e) :
    OperandReject c op 1 args e := by
  unfold decodeT at h
  split at h
  next v rest =>
    split at h
    next => cases h
    next hv =>
      cases h
      exact .inr ⟨v, rfl, targetOperand_eq_none hv⟩
  next =>
    cases h
    exact .inl ⟨rfl, Nat.one_pos⟩

theorem length_lt_two_of_ne_cons_cons (h : ∀ v w rest, args ≠ v :: w :: rest) : args.length < 2 := by
  match args, h with
  | [], _ => exact Nat.two_pos
  | [_], _ => exact Nat.one_lt_two
  | v :: w :: rest, h => exact absurd rfl (h v w rest)

theorem decodeRI_eq_error {mk : Reg → Byte → Instr} (h : decodeRI c op mk args = .error e) :
    OperandReject c op 2 args e := by
  unfold decodeRI at h
  split at h
  next v w rest =>
    split at h
    next hv =>
      cases h
      exact .inr ⟨v, rfl, regIndex_eq_none hv⟩
    next => cases h
  next hshort =>
    cases h
    exact .inl ⟨rfl, length_lt_two_of_ne_cons_cons hshort⟩

theorem decodeRR_eq_error {mk : Reg → Reg → Instr} (h : decodeRR c op mk args = .error e) :
    OperandReject c op 2 args e := by
  unfold decodeRR at h
  split at h
  next v w rest =>
    split at h
    next hv =>
      cases h
      exact .inr ⟨v, rfl, regIndex_eq_none hv⟩
    next =>
      split at h
      next hw =>
        cases h
        exact .inr ⟨w, rfl, regIndex_eq_none hw⟩
      next => cases h
  next hshort =>
    cases h
    exact .inl ⟨rfl, length_lt_two_of_ne_cons_cons hshort⟩

end

/-! ## The rows -/

/-- A row of format N, or of an instruction with no handler, whose operand is not looked at. -/
structure RowN (op : Byte) (i : Instr) : Prop where
  decodeOp_eq : ∀ c args, decodeOp c op args = .ok i
  opcode_eq : i.opcode = op
  encode_eq : i ≠ .int → i.encode = [op]
  wellFormed : ∀ c, i.wellFormed c = true

/-- A row of format R. -/
structure RowR (op : Byte) (mk : Reg → Instr) : Prop where
  decodeOp_eq : ∀ c args, decodeOp c op args = decodeR c op mk args
  opcode_eq : ∀ a, (mk a).opcode = op
  encode_eq : ∀ a, (mk a).encode = [op, regByte a]
  wellFormed : ∀ c a, (mk a).wellFormed c = true

/-- A row of format T. -/
structure RowT (op : Byte) (mk : Target → Instr) : Prop where
  decodeOp_eq : ∀ c args, decodeOp c op args = decodeT c op mk args
  opcode_eq : ∀ t, (mk t).opcode = op
  encode_eq : ∀ t, (mk t).encode = [op, t.byte]
  wellFormed : ∀ c t, (mk t).wellFormed c = t.wellFormed c.targetMode

/-- A row of format RI. -/
structure RowRI (op : Byte) (mk : Reg → Byte → Instr) : Prop where
  decodeOp_eq : ∀ c args, decodeOp c op args = decodeRI c op mk args
  opcode_eq : ∀ a b, (mk a b).opcode = op
  encode_eq : ∀ a b, (mk a b).encode = [op, regByte a, b]
  wellFormed : ∀ c a b, (mk a b).wellFormed c = true

/-- A row of format RR. -/
structure RowRR (op : Byte) (mk : Reg → Reg → Instr) : Prop where
  decodeOp_eq : ∀ c args, decodeOp c op args = decodeRR c op mk args
  opcode_eq : ∀ a b, (mk a b).opcode = op
  encode_eq : ∀ a b, (mk a b).encode = [op, regByte a, regByte b]
  wellFormed : ∀ c a b, (mk a b).wellFormed c = true

section
variable {op : Byte}

theorem exists_rowN (h : op ∈ opcodesN ∨ op ∈ [0x52#8, 0x13#8]) : ∃ i, RowN op i := by
  simp only [opcodesN, List.mem_cons, List.not_mem_nil, or_false] at h
  rcases h with (rfl | rfl | rfl) | rfl | rfl
  case inr.inl => exact ⟨.int, fun _ _ => rfl, rfl, fun h => absurd rfl h, fun _ => rfl⟩
  all_goals exact ⟨_, fun _ _ => rfl, rfl, fun _ => rfl, fun _ => rfl⟩

theorem exists_rowR (h : op ∈ opcodesR) : ∃ mk, RowR op mk := by
  simp only [opcodesR, List.mem_cons, List.not_mem_nil, or_false] at h
  rcases h with rfl | rfl | rfl | rfl | rfl | rfl | rfl
  all_goals exact ⟨_, fun _ _ => rfl, fun _ => rfl, fun _ => rfl, fun _ _ => rfl⟩

theorem exists_rowT (h : op ∈ opcodesT) : ∃ mk, RowT op mk := by
  simp only [opcodesT, List.mem_cons, List.not_mem_nil, or_false] at h
  rcases h with rfl | rfl | rfl | rfl | rfl | rfl | rfl | rfl
  all_goals exact ⟨_, fun _ _ => rfl, fun _ => rfl, fun _ => rfl, fun _ _ => rfl⟩

theorem exists_rowRI (h : op ∈ opcodesRI) : ∃ mk, RowRI op mk := by
  obtain rfl := List.mem_singleton.1 h
  exact ⟨_, fun _ _ => rfl, fun _ _ => rfl, fun _ _ => rfl, fun _ _ _ => rfl⟩

theorem exists_rowRR (h : op ∈ opcodesRR) : ∃ mk, RowRR op mk := by
  simp only [opcodesRR, List.mem_cons, List.not_mem_nil, or_false] at h
  rcases h with rfl | rfl | rfl | rfl | rfl | rfl | rfl | rfl | rfl | rfl | rfl | rfl | rfl
  all_goals exact ⟨_, fun _ _ => rfl, fun _ _ => rfl, fun _ _ => rfl, fun _ _ _ => rfl⟩

/-- Every opcode with a handler belongs to one of the five formats. -/
theorem mem_handlerOpcodes_iff :
    op ∈ handlerOpcodes ↔
      op ∈ opcodesN ∨ op ∈ opcodesR ∨ op ∈ opcodesT ∨ op ∈ opcodesRI ∨ op ∈ opcodesRR := by
  simp only [handlerOpcodes, List.mem_append, or_assoc]

/-- Every opcode of the table has a row (30_encoding R56). -/
theorem row_cases (h : op ∈ tableOpcodes) :
    (∃ i, RowN op i) ∨ (∃ mk, RowR op mk) ∨ (∃ mk, RowT op mk) ∨ (∃ mk, RowRI op mk) ∨ ∃ mk, RowRR op mk := by
  rcases List.mem_append.1 h with h | h
  · exact (mem_handlerOpcodes_iff.1 h).imp (exists_rowN ∘ .inl)
      (.imp exists_rowR (.imp exists_rowT (.imp exists_rowRI exists_rowRR)))
  · exact .inl (exists_rowN (.inr h))

end

/-! ## Everything the decoder can answer -/

section
variable {c : Config} {op : Byte} {args : List Byte} {i : Instr} {e : Reject}

/-- Only an opcode of the table decodes (30_encoding R57). -/
theorem mem_tableOpcodes_of_decode_ok (h : decode c (op :: args) = .ok i) : op ∈ tableOpcodes := by
  by_contra hmem
  rw [(decode_eq_unknownOpcode_iff c op args).2 hmem] at h
  cases h

/-- What an instruction that the decoder answers has to do with its bytes: it exists under the parameters, its opcode
is the first byte, and under `fault` the bytes begin with its encoding, unless it is INT (45_system R162). -/
theorem decode_ok (h : decode c (op :: args) = .ok i) :
    i.wellFormed c = true ∧ i.opcode = op ∧
      (c.regIndex = .fault → i ≠ .int → ∃ rest, op :: args = i.encode ++ rest) := by
  have hd : decodeOp c op args = .ok i := h
  rcases row_cases (mem_tableOpcodes_of_decode_ok h) with ⟨j, row⟩ | ⟨mk, row⟩ | ⟨mk, row⟩ | ⟨mk, row⟩ | ⟨mk, row⟩
  all_goals rw [row.decodeOp_eq] at hd
  case inl =>
    cases hd
    exact ⟨row.wellFormed c, row.opcode_eq, fun _ hint => ⟨args, by rw [row.encode_eq hint]; rfl⟩⟩
  case inr.inl =>
    obtain ⟨v, rest, a, rfl, hv, rfl⟩ := decodeR_eq_ok hd
    refine ⟨row.wellFormed c a, row.opcode_eq a, fun hc _ => ⟨rest, ?_⟩⟩
    rw [hc] at hv
    rw [row.encode_eq, regIndex_fault_eq_some hv]
    rfl
  case inr.inr.inl =>
    obtain ⟨v, rest, t, rfl, hv, rfl⟩ := decodeT_eq_ok hd
    refine ⟨(row.wellFormed c t).trans (targetOperand_wellFormed hv), row.opcode_eq t, fun hc _ => ⟨rest, ?_⟩⟩
    rw [row.encode_eq, targetOperand_fault_eq_some hc hv]
    rfl
  case inr.inr.inr.inl =>
    obtain ⟨v, w, rest, a, rfl, hv, rfl⟩ := decodeRI_eq_ok hd
    refine ⟨row.wellFormed c a w, row.opcode_eq a w, fun hc _ => ⟨rest, ?_⟩⟩
    rw [hc] at hv
    rw [row.encode_eq, regIndex_fault_eq_some hv]
    rfl
  case inr.inr.inr.inr =>
    obtain ⟨v, w, rest, a, b, rfl, hv, hw, rfl⟩ := decodeRR_eq_ok hd
    refine ⟨row.wellFormed c a b, row.opcode_eq a b, fun hc _ => ⟨rest, ?_⟩⟩
    rw [hc] at hv hw
    rw [row.encode_eq, regIndex_fault_eq_some hv, regIndex_fault_eq_some hw]
    rfl

theorem decode_ok_opcode (h : decode c (op :: args) = .ok i) : i.opcode = op := by
  obtain ⟨-, hop, -⟩ := decode_ok h
  exact hop

/-- Every rejection: the opcode is outside the table, or a format rejects the operands. -/
theorem decode_error (h : decode c (op :: args) = .error e) :
    (e = .unknownOpcode op ∧ op ∉ tableOpcodes) ∨ ∃ n ≤ 2, OperandReject c op n args e := by
  by_cases hmem : op ∈ tableOpcodes
  case neg =>
    rw [(decode_eq_unknownOpcode_iff c op args).2 hmem] at h
    cases h
    exact .inl ⟨rfl, hmem⟩
  case pos =>
    have hd : decodeOp c op args = .error e := h
    right
    rcases row_cases hmem with ⟨j, row⟩ | ⟨mk, row⟩ | ⟨mk, row⟩ | ⟨mk, row⟩ | ⟨mk, row⟩
    all_goals rw [row.decodeOp_eq] at hd
    · cases hd
    · exact ⟨1, by decide, decodeR_eq_error hd⟩
    · exact ⟨1, by decide, decodeT_eq_error hd⟩
    · exact ⟨2, by decide, decodeRI_eq_error hd⟩
    · exact ⟨2, by decide, decodeRR_eq_error hd⟩

end

/-! ## Decoding what was encoded -/

section
variable (c : Config) (op : Byte) (a b : Reg) (rest : List Byte)

theorem decodeR_regByte (mk : Reg → Instr) : decodeR c op mk (regByte a :: rest) = .ok (mk a) := by
  simp only [decodeR, regIndex_regByte]

theorem decodeT_byte (mk : Target → Instr) {t : Target} (h : t.wellFormed c.targetMode = true) :
    decodeT c op mk (t.byte :: rest) = .ok (mk t) := by
  simp only [decodeT, targetOperand_byte c t h]

theorem decodeRI_regByte (mk : Reg → Byte → Instr) (v : Byte) :
    decodeRI c op mk (regByte a :: v :: rest) = .ok (mk a v) := by
  simp only [decodeRI, regIndex_regByte]

theorem decodeRR_regByte (mk : Reg → Reg → Instr) :
    decodeRR c op mk (regByte a :: regByte b :: rest) = .ok (mk a b) := by
  simp only [decodeRR, regIndex_regByte]

end

/-- Settles O17: by the format of the instruction, since an operand's byte names that operand under both policies. -/
theorem decodingAnEncodedInstructionGivesItBack : Obligations.DecodingAnEncodedInstructionGivesItBack := by
  intro c i rest hwf
  cases i with
  | nop | hlt | ret | iret | int => rfl
  | push a | pop a | prn a | pra a | inc a | dec a | not a => exact decodeR_regByte c _ a rest _
  | call t | jmp t | jeq t | jne t | jgt t | jlt t | jle t | jge t => exact decodeT_byte c _ rest _ hwf
  | ldi a v => exact decodeRI_regByte c _ a rest _ v
  | ld a b | st a b | add a b | sub a b | mul a b | div a b | mod a b | cmp a b | and a b | or a b | xor a b
  | shl a b | shr a b => exact decodeRR_regByte c _ a b rest _

/-- Settles O15: the table by counting, the rejection by the lookup being the table's. -/
theorem undefinedOpcodesAreThoseOutsideTheTable : Obligations.UndefinedOpcodesAreThoseOutsideTheTable :=
  ⟨rfl, decode_eq_unknownOpcode_iff⟩

/-- Settles O18: the decoder answers nothing on no bytes, and otherwise by its rows. -/
theorem decodedInstructionIsWellFormed : Obligations.DecodedInstructionIsWellFormed := by
  intro c bytes i h
  cases bytes with
  | nil => cases h
  | cons op args =>
    obtain ⟨hwf, -, -⟩ := decode_ok h
    exact hwf

/-- Settles O19: INT by its opcode alone, every other instruction because under `fault` an operand byte that names a
register is that register's byte. -/
theorem decodedBytesAreTheEncoding : Obligations.DecodedBytesAreTheEncoding := by
  intro c bytes i hc h
  cases bytes with
  | nil => cases h
  | cons op args =>
    obtain ⟨-, hop, henc⟩ := decode_ok h
    split
    case isTrue hint =>
      subst hint hop
      exact ⟨args, rfl⟩
    case isFalse hint => exact henc hc hint

/-! ## Masked operands -/

/-- Under `mask` only the low three bits of an operand byte count (30_encoding R55). -/
theorem regIndex_mask_low_bits (v : Byte) : regIndex .mask (v &&& 7#8) = regIndex .mask v := by
  simp only [regIndex_mask, BitVec.toNat_and, BitVec.toNat_ofNat]
  have : v.toNat &&& 7 = v.toNat % 8 := Nat.and_two_pow_sub_one_eq_mod v.toNat 3
  simp [this]

/-- Settles O14: by the row of the opcode, since under `mask` every operand byte names the register of its low three
bits. -/
theorem maskPolicyUsesTheLowThreeBits : Obligations.MaskPolicyUsesTheLowThreeBits := by
  intro c op v w rest hmask
  refine ⟨fun h => ?rr, fun h => ?ri, fun h => ?r, fun h hmode => ?t⟩
  case rr =>
    obtain ⟨mk, row⟩ := exists_rowRR h
    simp only [decode, row.decodeOp_eq, decodeRR, hmask, regIndex_mask_low_bits]
    exact ⟨rfl, _, rfl⟩
  case ri =>
    obtain ⟨mk, row⟩ := exists_rowRI h
    simp only [decode, row.decodeOp_eq, decodeRI, hmask, regIndex_mask_low_bits]
    exact ⟨rfl, _, rfl⟩
  case r =>
    obtain ⟨mk, row⟩ := exists_rowR h
    simp only [decode, row.decodeOp_eq, decodeR, hmask, regIndex_mask_low_bits]
    exact ⟨rfl, _, rfl⟩
  case t =>
    obtain ⟨mk, row⟩ := exists_rowT h
    simp only [decode, row.decodeOp_eq, decodeT, targetOperand_reg hmode, hmask, regIndex_mask_low_bits]
    exact ⟨rfl, _, rfl⟩

/-- Settles O20: each word is the encoding of its instruction, which decoding gives back. -/
theorem sampleWordsDecodeAsTheSpecWritesThem : Obligations.SampleWordsDecodeAsTheSpecWritesThem :=
  have roundTrip := decodingAnEncodedInstructionGivesItBack
  ⟨roundTrip _ (.mul 0 1) [] rfl, roundTrip _ (.not 2) [] rfl, roundTrip _ (.ldi 0 9#8) [] rfl,
    roundTrip _ (.st 2 1) [] rfl, roundTrip _ (.prn 7) [] rfl, roundTrip _ (.push 3) [] rfl,
    roundTrip _ (.jge (.reg 2)) [] rfl, roundTrip _ (.jmp (.imm 8#8)) [] rfl, roundTrip _ .hlt [] rfl⟩

end Sys2Proof.Proofs
end

section
/-! PROOFS. The statements about instruction fetch and about how the step puts fetch, decoder and execution together
(40_execution_cycle). -/

namespace Sys2Proof.Proofs

open Sys2Proof.Machine Sys2Proof.Safety

/-! ## Fetch -/

/-- An address past `a` modulo 256 is `a` plus the offset. -/
theorem ofNat_toNat_add (a : Byte) (k : Nat) : BitVec.ofNat 8 (a.toNat + k) = a + BitVec.ofNat 8 k := by
  rw [BitVec.ofNat_add, BitVec.ofNat_toNat, BitVec.setWidth_eq]

/-- A byte in memory, or any byte under `wrap`, is fetched modulo 256 (40_execution_cycle R75). -/
theorem fetchAddr_eq_some {p : PcOverflowPolicy} {a : Byte} {k : Nat} (h : p = .wrap ∨ a.toNat + k ≤ 255) :
    fetchAddr p a k = some (a + BitVec.ofNat 8 k) := by
  rw [← ofNat_toNat_add]
  unfold fetchAddr
  rcases h with rfl | h
  · exact ite_self _
  · exact if_pos h

theorem fetchAddr_fault_eq_none {a : Byte} {k : Nat} (h : 255 < a.toNat + k) : fetchAddr .fault a k = none :=
  if_neg (Nat.not_le_of_gt h)

section
variable {s : State}

theorem fetchAddr_zero (p : PcOverflowPolicy) (a : Byte) : fetchAddr p a 0 = some a := by
  rw [fetchAddr_eq_some (.inr (by omega)), BitVec.add_zero]

/-- The first byte fetched is always the one at the program counter. -/
theorem fetchBytes_eq_cons (s : State) :
    fetchBytes s =
      readMem s s.pc :: ([1, 2].filterMap (fetchAddr s.cfg.pcOverflow s.pc)).map (readMem s) := by
  rw [fetchBytes, fetchAddrs, List.filterMap_cons_some (fetchAddr_zero _ _), List.map_cons]

theorem fetchBytes_three (h : s.cfg.pcOverflow = .wrap ∨ s.pc.toNat + 2 ≤ 255) :
    fetchBytes s = [readMem s s.pc, readMem s (s.pc + 1#8), readMem s (s.pc + 2#8)] := by
  have h1 := fetchAddr_eq_some (k := 1) (h.imp_right (Nat.le_of_succ_le (n := s.pc.toNat + 1)))
  have h2 := fetchAddr_eq_some (k := 2) h
  simp [fetchBytes_eq_cons, h1, h2]

theorem fetchBytes_two (hp : s.cfg.pcOverflow = .fault) (hpc : s.pc.toNat = 254) :
    fetchBytes s = [readMem s s.pc, readMem s (s.pc + 1#8)] := by
  have h1 : fetchAddr .fault s.pc 1 = some (s.pc + 1#8) := fetchAddr_eq_some (.inr (by omega))
  have h2 : fetchAddr .fault s.pc 2 = none := fetchAddr_fault_eq_none (by omega)
  simp [fetchBytes_eq_cons, hp, h1, h2]

theorem fetchBytes_one (hp : s.cfg.pcOverflow = .fault) (hpc : s.pc.toNat = 255) :
    fetchBytes s = [readMem s s.pc] := by
  have h1 : fetchAddr .fault s.pc 1 = none := fetchAddr_fault_eq_none (by omega)
  have h2 : fetchAddr .fault s.pc 2 = none := fetchAddr_fault_eq_none (by omega)
  simp [fetchBytes_eq_cons, hp, h1, h2]

/-- The fetched bytes are the opcode at the program counter and two more bytes, or, at the top of memory under `fault`,
as many as there are up to 0xFF (40_execution_cycle R75). -/
theorem exists_operands (s : State) :
    ∃ args, fetchBytes s = readMem s s.pc :: args ∧
      (((s.cfg.pcOverflow = .wrap ∨ s.pc.toNat + 2 ≤ 255) ∧ args.length = 2) ∨
        (s.cfg.pcOverflow = .fault ∧ s.pc.toNat + args.length = 255)) := by
  by_cases hthree : s.cfg.pcOverflow = .wrap ∨ s.pc.toNat + 2 ≤ 255
  case pos => exact ⟨_, fetchBytes_three hthree, .inl ⟨hthree, rfl⟩⟩
  case neg =>
    obtain ⟨hwrap, hpc⟩ := not_or.1 hthree
    have hp : s.cfg.pcOverflow = .fault := by
      cases hcase : s.cfg.pcOverflow
      · rfl
      · exact absurd hcase hwrap
    have hlt := s.pc.isLt
    rcases (by omega : s.pc.toNat = 254 ∨ s.pc.toNat = 255) with hpc | hpc
    · exact ⟨_, fetchBytes_two hp hpc, .inr ⟨hp, by simp [hpc]⟩⟩
    · exact ⟨_, fetchBytes_one hp hpc, .inr ⟨hp, by simp [hpc]⟩⟩

end

/-- Settles O7: three bytes where three can be fetched, two at 0xFE and one at 0xFF under `fault`. -/
theorem fetchTakesTheBytesFromPcUpward : Obligations.FetchTakesTheBytesFromPcUpward := by
  refine fun s => ⟨fun h => fetchBytes_three (.inr h), fun hp hpc => ?atFE, fun hp hpc => ?atFF,
    fun h => fetchBytes_three (.inl h)⟩
  case atFE =>
    rw [fetchBytes_two hp (by rw [hpc]; rfl), hpc]
    rfl
  case atFF => rw [fetchBytes_one hp (by rw [hpc]; rfl), hpc]

/-! ## The step of a RUNNING machine -/

section
variable {s : State} {i : Instr} {e : Reject}

theorem step_of_decode_ok (hrun : s.run = .running) (h : decode s.cfg (fetchBytes s) = .ok i) :
    step s = exec i s := by
  simp only [step, hrun, h]

theorem step_of_decode_error (hrun : s.run = .running) (h : decode s.cfg (fetchBytes s) = .error e) :
    step s = .next (raise (rejectReport s.pc e) s) := by
  simp only [step, hrun, h]

theorem step_of_halted {r : Report} (h : s.run = .halted r) : step s = .fault (.halted r) := by
  simp only [step, h]

end

/-- Settles O6: by the definition of the step. -/
theorem stepRunsTheDecodedInstruction : Obligations.StepRunsTheDecodedInstruction :=
  fun _ _ => step_of_decode_ok

/-- Settles O8: by the definition of the step. -/
theorem haltedMachineHasNoStep : Obligations.HaltedMachineHasNoStep :=
  fun _ _ => step_of_halted

/-! ## Running -/

theorem runFor_succ {s t : State} (n : Nat) (h : step s = .next t) : runFor (n + 1) s = runFor n t := by
  simp only [runFor, h]

/-- Where there is no step, a run stays. -/
theorem runFor_of_no_step {s : State} (h : ∀ t, step s ≠ .next t) (n : Nat) : runFor n s = s := by
  cases n with
  | zero => rfl
  | succ n =>
    unfold runFor
    split
    next t ht => exact absurd ht (h t)
    · rfl
    · rfl

theorem runFor_of_halted {s : State} {r : Report} (h : s.run = .halted r) (n : Nat) : runFor n s = s :=
  runFor_of_no_step (step_ne_next_of_halted h) n

theorem run_of_report {s : State} {r : Report} (h : s.report = some r) : s.run = .halted r := by
  unfold State.report at h
  split at h
  next => cases h
  next hrun =>
    cases h
    exact hrun

/-- Fuel adds up: a run of `n + m` steps is a run of `m` steps after one of `n`. -/
theorem runFor_add (n m : Nat) (s : State) : runFor (n + m) s = runFor m (runFor n s) := by
  induction n generalizing s with
  | zero => rw [Nat.zero_add]; rfl
  | succ n ih =>
    by_cases hnext : ∃ t, step s = .next t
    case pos =>
      obtain ⟨t, ht⟩ := hnext
      rw [Nat.add_right_comm, runFor_succ _ ht, runFor_succ _ ht, ih]
    case neg =>
      have hstop := runFor_of_no_step (not_exists.1 hnext)
      rw [hstop, hstop, hstop]

/-- Settles O10: the fuel of two runs adds up, and a halted machine has no step. -/
theorem runRepeatsTheStepUntilHalted : Obligations.RunRepeatsTheStepUntilHalted := by
  refine ⟨fun n _ _ => runFor_succ n, fun n _ _ h => runFor_of_halted h n, fun n m s r h => ?_⟩
  rw [runFor_add, runFor_of_halted (run_of_report h)]

end Sys2Proof.Proofs
end

section
/-! PROOFS. What an instruction does before its program-counter update, and the three ways in which it ends
(40_execution_cycle R77, R78). The rules of the whole machine are read off from these. -/

namespace Sys2Proof.Proofs

open Sys2Proof.Machine Sys2Proof.Safety

/-! ## The effect of an instruction -/

/-- What an instruction does to the state before the program counter moves, where it raises no fault. -/
def effect (s : State) : Instr → State
  | .push a => writeMem (decSp s) (sp (decSp s)) (readReg (decSp s) a)
  | .pop a => incSp (writeReg s a (readMem s (sp s)))
  | .prn a => emit .prn (readReg s a) s
  | .pra a => emit .pra (readReg s a) s
  | .call _ => pushReturn s
  | .ret => incSp s
  | .ldi a b => writeReg s a b
  | .ld a b => writeReg s a (readMem s (indirectAddr s b))
  | .st a b => writeMem s (indirectAddr s a) (readReg s b)
  | .inc a => aluUnary aluInc a s
  | .dec a => aluUnary aluDec a s
  | .not a => aluUnary aluNot a s
  | .add a b => aluBinary aluAdd a b s
  | .sub a b => aluBinary aluSub a b s
  | .mul a b => aluBinary aluMul a b s
  | .div a b => aluBinary aluDiv a b s
  | .mod a b => aluBinary aluMod a b s
  | .cmp a b => writeFlags (compareFlags (readReg s a) (readReg s b)) s
  | .and a b => aluBinary aluAnd a b s
  | .or a b => aluBinary aluOr a b s
  | .xor a b => aluBinary aluXor a b s
  | .shl a b => aluBinary aluShl a b s
  | .shr a b => aluBinary aluShr a b s
  | .nop | .hlt | .iret | .int => s
  | .jmp _ | .jeq _ | .jne _ | .jgt _ | .jlt _ | .jle _ | .jge _ => s

/-- The reports with which an instruction itself ends the run (45_system R161 to R163, 60_exceptions R173). -/
inductive Stops (s : State) : Instr → Report → Prop
  | hlt : Stops s .hlt .clean
  | int : Stops s .int (.unknownInstruction 0x52#8 s.pc)
  | iret : Stops s .iret (.unknownInstruction 0x13#8 s.pc)
  | div (a b : Reg) : Stops s (.div a b) (.aluFault .divisionByZero .div s.pc)
  | mod (a b : Reg) : Stops s (.mod a b) (.aluFault .divisionByZero .mod s.pc)

/-- The three ways in which an instruction ends (the outcomes of 40_execution_cycle R78, a fault beside `halt`). -/
inductive Ends (i : Instr) (s : State) : State → Prop
  | goesOn (hc : continues s i = true) : Ends i s (advance i.operandBytes.length (effect s i))
  | jumps (a : Byte) (hc : continues s i = false) : Ends i s (jumpTo a (effect s i))
  | stops {r : Report} (hc : continues s i = false) (hr : Stops s i r) : Ends i s (raise r s)

theorem aluDivide_of_zero (op : DivOp) (f : Byte → Byte → Byte) (a b : Reg) {s : State} (h : readReg s b = 0#8) :
    aluDivide op f a b s = raise (.aluFault .divisionByZero op s.pc) s :=
  if_pos h

theorem aluDivide_of_ne_zero (op : DivOp) (f : Byte → Byte → Byte) (a b : Reg) {s : State}
    (h : readReg s b ≠ 0#8) : aluDivide op f a b s = advance 2 (aluBinary f a b s) :=
  if_neg h

theorem branchIf_of_true (s : State) {cond : Bool} (h : cond = true) (t : Target) :
    branchIf cond t s = jumpTo (targetValue s t) s :=
  if_pos h

theorem branchIf_of_false (s : State) {cond : Bool} (h : cond = false) (t : Target) :
    branchIf cond t s = advance 1 s := by
  rw [h]
  rfl

/-- A conditional jump goes on exactly when its condition fails (44_control_flow R142 to R147). -/
theorem ends_branchIf (s : State) {i : Instr} (cond : Bool) (t : Target) (heff : effect s i = s)
    (hn : i.operandBytes.length = 1) (hc : continues s i = !cond) : Ends i s (branchIf cond t s) := by
  cases cond with
  | true =>
    have := Ends.jumps (i := i) (targetValue s t) hc
    rwa [heff] at this
  | false =>
    have := Ends.goesOn hc
    rwa [heff, hn] at this

/-- DIV and MOD go on exactly when the divisor is not 0 (41_alu R104, R105). -/
theorem ends_aluDivide (s : State) {i : Instr} (op : DivOp) (f : Byte → Byte → Byte) (a b : Reg)
    (heff : effect s i = aluBinary f a b s) (hn : i.operandBytes.length = 2) (hc : continues s i = (readReg s b != 0#8))
    (hr : Stops s i (.aluFault .divisionByZero op s.pc)) : Ends i s (aluDivide op f a b s) := by
  by_cases hz : readReg s b = 0#8
  case pos =>
    rw [aluDivide_of_zero op f a b hz]
    exact .stops (by simp [hc, hz]) hr
  case neg =>
    have := Ends.goesOn (s := s) (i := i) (by simp [hc, hz])
    rwa [heff, hn, ← aluDivide_of_ne_zero op f a b hz] at this

/-- Every instruction answers a next state, in one of the three ways. -/
theorem exec_ends (s : State) (i : Instr) : ∃ t, exec i s = .next t ∧ Ends i s t := by
  cases i with
  | nop | push a | pop a | prn a | pra a | inc a | dec a | not a | ldi a b | ld a b | st a b | add a b | sub a b
  | mul a b | cmp a b | and a b | or a b | xor a b | shl a b | shr a b => exact ⟨_, rfl, .goesOn rfl⟩
  | ret | call t | jmp t => exact ⟨_, rfl, .jumps _ rfl⟩
  | hlt => exact ⟨_, rfl, .stops rfl .hlt⟩
  | int => exact ⟨_, rfl, .stops rfl .int⟩
  | iret => exact ⟨_, rfl, .stops rfl .iret⟩
  | div a b => exact ⟨_, rfl, ends_aluDivide s .div aluDiv a b rfl rfl rfl (.div a b)⟩
  | mod a b => exact ⟨_, rfl, ends_aluDivide s .mod aluMod a b rfl rfl rfl (.mod a b)⟩
  | jeq t => exact ⟨_, rfl, ends_branchIf s (condEq s.flags) t rfl rfl rfl⟩
  | jne t => exact ⟨_, rfl, ends_branchIf s (condNe s.flags) t rfl rfl (Bool.not_not _).symm⟩
  | jgt t => exact ⟨_, rfl, ends_branchIf s (condGt s.flags) t rfl rfl rfl⟩
  | jlt t => exact ⟨_, rfl, ends_branchIf s (condLt s.flags) t rfl rfl rfl⟩
  | jle t => exact ⟨_, rfl, ends_branchIf s (condLe s.flags) t rfl rfl rfl⟩
  | jge t => exact ⟨_, rfl, ends_branchIf s (condGe s.flags) t rfl rfl rfl⟩

theorem ends_of_exec {i : Instr} {s t : State} (h : exec i s = .next t) : Ends i s t := by
  obtain ⟨u, hu, hends⟩ := exec_ends s i
  rw [hu] at h
  cases h
  exact hends

/-- An instruction whose outcome is `continue` has its effect and then advances. -/
theorem exec_of_continues {i : Instr} {s : State} (h : continues s i = true) :
    exec i s = .next (advance i.operandBytes.length (effect s i)) := by
  obtain ⟨t, ht, hends⟩ := exec_ends s i
  cases hends with
  | goesOn => exact ht
  | jumps _ hc | stops hc => simp [h] at hc

/-! ## What the effect leaves alone -/

@[simp] theorem effect_pc (s : State) (i : Instr) : (effect s i).pc = s.pc := by cases i <;> rfl

@[simp] theorem effect_run (s : State) (i : Instr) : (effect s i).run = s.run := by cases i <;> rfl

@[simp] theorem effect_cfg (s : State) (i : Instr) : (effect s i).cfg = s.cfg := by cases i <;> rfl

theorem effect_flags (s : State) {i : Instr} (h : ∀ a b : Reg, i ≠ .cmp a b) : (effect s i).flags = s.flags := by
  cases i with
  | cmp a b => exact absurd rfl (h a b)
  | _ => rfl

theorem effect_out (s : State) (i : Instr) :
    (effect s i).out = s.out ∨
    (∃ a, i = .prn a ∧ (effect s i).out = s.out ++ [{ kind := .prn, value := readReg s a }]) ∨
    (∃ a, i = .pra a ∧ (effect s i).out = s.out ++ [{ kind := .pra, value := readReg s a }]) := by
  cases i with
  | prn a => exact .inr (.inl ⟨a, rfl, rfl⟩)
  | pra a => exact .inr (.inr ⟨a, rfl, rfl⟩)
  | _ => exact .inl rfl

/-- The registers outside the instruction's list keep their content (10_state R11, R17). -/
theorem effect_regs (s : State) (i : Instr) : SameRegsBut (writtenRegs i) s (effect s i) := by
  intro r hr
  cases i with
  | ldi a _ | ld a _ | inc a | dec a | not a | add a _ | sub a _ | mul a _ | div a _ | mod a _ | and a _ | or a _
  | xor a _ | shl a _ | shr a _ => exact readReg_writeReg_ne s _ (List.ne_of_not_mem_cons hr)
  | push _ | call _ => exact readReg_decSp_ne s (List.ne_of_not_mem_cons hr)
  | ret => exact readReg_incSp_ne s (List.ne_of_not_mem_cons hr)
  | pop a =>
    obtain ⟨hra, hr7⟩ := List.ne_and_not_mem_of_not_mem_cons hr
    exact (readReg_incSp_ne _ (List.ne_of_not_mem_cons hr7)).trans (readReg_writeReg_ne s _ hra)
  | _ => rfl

/-- The cells outside the instruction's list keep their content (20_memory R31). -/
theorem effect_cells (s : State) (i : Instr) : SameMemBut (writtenCells s i) s (effect s i) := by
  intro c hc
  cases i with
  | st _ _ | push _ | call _ => exact (readMem_writeMem_eq ..).trans (if_neg (List.ne_of_not_mem_cons hc))
  | _ => rfl

theorem effect_wf {s : State} (h : Memory.wf s.mem) (i : Instr) : Memory.wf (effect s i).mem := by
  cases i with
  | st _ _ | push _ | call _ => exact memWrite_wf h _ _
  | _ => exact h

theorem effect_flagsExclusive {s : State} (h : FlagsExclusive s) (i : Instr) : FlagsExclusive (effect s i) := by
  cases i with
  | cmp a b =>
    simp only [effect, FlagsExclusive, writeFlags_flags, compareFlags, decide_eq_true_eq]
    omega
  | _ => exact h

/-- The effect of an instruction that goes on does not depend on where the instruction stands; CALL's does, which pushes
the address after it. -/
theorem effect_withPc {i : Instr} {s : State} (h : continues s i = true) (p : Byte) :
    effect { s with pc := p } i = { effect s i with pc := p } := by
  cases i with
  | call t => cases h
  | _ => rfl

theorem continues_withPc (s : State) (i : Instr) (p : Byte) : continues { s with pc := p } i = continues s i := by
  cases i <;> rfl

/-! ## Frames of a whole instruction and of a step -/

/-- An instruction leaves its effect but for the program counter and the run state, or nothing but a report. -/
theorem Ends.frame {i : Instr} {s t : State} (h : Ends i s t) :
    (∃ p r, t = { effect s i with pc := p, run := r }) ∨ ∃ r, t = raise r s := by
  cases h with
  | goesOn =>
    rcases advance_cases i.operandBytes.length (effect s i) with ht | ⟨-, -, ht⟩
    · exact .inl ⟨_, _, ht⟩
    · exact .inl ⟨_, _, ht⟩
  | jumps a => exact .inl ⟨a, _, rfl⟩
  | stops => exact .inr ⟨_, rfl⟩

/-- A step leaves the effect of its instruction but for the program counter and the run state, or nothing but a
report. -/
theorem step_frame {s t : State} (h : step s = .next t) :
    (∃ i p r, decode s.cfg (fetchBytes s) = .ok i ∧ t = { effect s i with pc := p, run := r }) ∨
      ∃ r, t = raise r s := by
  obtain ⟨-, ⟨i, hdec, hexec⟩ | ⟨e, -, rfl⟩⟩ := step_cases h
  · exact (ends_of_exec hexec).frame.imp_left fun ⟨p, r, ht⟩ => ⟨i, p, r, hdec, ht⟩
  · exact .inr ⟨_, rfl⟩

/-- Settles O46, by the frame of the instruction and the flags its effect leaves. -/
theorem onlyCmpWritesTheFlags : Obligations.OnlyCmpWritesTheFlags := by
  intro i s t h hcmp
  obtain ⟨p, r, rfl⟩ | ⟨r, rfl⟩ := (ends_of_exec h).frame
  · exact effect_flags s hcmp
  · rfl

/-- Settles O47, by the frame of the instruction and the cells its effect leaves. -/
theorem onlyStPushCallWriteMemory : Obligations.OnlyStPushCallWriteMemory := by
  intro i s t h
  obtain ⟨p, r, rfl⟩ | ⟨r, rfl⟩ := (ends_of_exec h).frame
  · exact effect_cells s i
  · exact fun _ _ => rfl

/-- Settles O48, by the frame of the instruction and the registers its effect leaves. -/
theorem instructionsWriteOnlyTheirRegisters : Obligations.InstructionsWriteOnlyTheirRegisters := by
  intro i s t h
  obtain ⟨p, r, rfl⟩ | ⟨r, rfl⟩ := (ends_of_exec h).frame
  · exact effect_regs s i
  · exact fun _ _ => rfl

/-- Settles O49, by the frame of the step and the output of the effect. -/
theorem outputIsAppendOnly : Obligations.OutputIsAppendOnly := by
  intro s t h
  obtain ⟨i, p, r, hdec, rfl⟩ | ⟨r, rfl⟩ := step_frame h
  · rcases effect_out s i with hout | ⟨a, rfl, hout⟩ | ⟨a, rfl, hout⟩
    · exact .inl hout
    · exact .inr (.inl ⟨a, hdec, hout⟩)
    · exact .inr (.inr ⟨a, hdec, hout⟩)
  · exact .inl rfl

/-- Settles O52, by the frame of the step. -/
theorem parametersNeverChange : Obligations.ParametersNeverChange := by
  intro s t h
  obtain ⟨i, p, r, -, rfl⟩ | ⟨r, rfl⟩ := step_frame h
  · exact effect_cfg s i
  · rfl

/-- Settles O53, by the frame of the step, since every memory write of an effect keeps the form. -/
theorem stepKeepsMemoryCanonical : Obligations.StepKeepsMemoryCanonical := by
  intro s t hwf h
  obtain ⟨i, p, r, -, rfl⟩ | ⟨r, rfl⟩ := step_frame h
  · exact effect_wf hwf i
  · exact hwf

/-- Settles O54, by the frame of the step, since CMP sets the one flag that the comparison gives. -/
theorem stepKeepsFlagsExclusive : Obligations.StepKeepsFlagsExclusive := by
  intro s t hflags h
  obtain ⟨i, p, r, -, rfl⟩ | ⟨r, rfl⟩ := step_frame h
  · exact effect_flagsExclusive hflags i
  · exact hflags

/-- Settles O9: an instruction that decodes answers a next state, and so does a rejection. -/
theorem runningMachineAlwaysHasANextState : Obligations.RunningMachineAlwaysHasANextState := by
  intro s hrun
  cases hdec : decode s.cfg (fetchBytes s) with
  | ok i =>
    obtain ⟨t, ht, -⟩ := exec_ends s i
    exact ⟨t, (step_of_decode_ok hrun hdec).trans ht⟩
  | error e => exact ⟨_, step_of_decode_error hrun hdec⟩

/-! ## The top of memory -/

/-- The length of an instruction is that of its encoding (30_encoding R50, R52). -/
theorem length_eq (i : Instr) : i.length = 1 + i.operandBytes.length := by
  rw [length_operandBytes]
  rfl

/-- An instruction that goes on from address 0 has its effect and ends at its length. -/
theorem exec_at_zero {i : Instr} {s : State} (h : continues s i = true) :
    exec i { s with pc := 0x00#8 } = .next { effect s i with pc := BitVec.ofNat 8 i.length } := by
  obtain ⟨-, -, -, hle, -⟩ := encodingLength i
  rw [length_eq] at hle ⊢
  rw [exec_of_continues ((continues_withPc s i _).trans h), effect_withPc h, advance_of_fits]
  all_goals simp only [BitVec.toNat_ofNat, Nat.zero_mod, Nat.zero_add]
  omega

/-- Settles O44: the effect does not depend on the address, and `advance` past 0xFF under `fault` ends the run after
it. -/
theorem successorBeyondTopEndsTheRunAfterTheEffect : Obligations.SuccessorBeyondTopEndsTheRunAfterTheEffect := by
  intro i s hc hp hpast
  refine ⟨_, exec_at_zero hc, ?_⟩
  have hpast' : ¬ (effect s i).pc.toNat + 1 + i.operandBytes.length ≤ 255 := by
    rw [length_eq] at hpast
    rw [effect_pc]
    omega
  rw [exec_of_continues hc, advance_past_fault hpast' (by rw [effect_cfg, hp]), ← effect_pc s i]
  rfl

/-- Settles O45: the effect does not depend on the address, and `advance` under `wrap` goes on modulo 256. -/
theorem wrapPolicyContinuesModulo256 : Obligations.WrapPolicyContinuesModulo256 := by
  intro i s hc hp
  refine ⟨_, exec_at_zero hc, ?_⟩
  have hpc : BitVec.ofNat 8 ((effect s i).pc.toNat + 1 + i.operandBytes.length) =
      BitVec.ofNat 8 ((s.pc.toNat + i.length) % 256) := by
    apply BitVec.eq_of_toNat_eq
    simp only [effect_pc, length_eq, BitVec.toNat_ofNat, Nat.add_assoc]
    omega
  rw [exec_of_continues hc, advance_wrap (by rw [effect_cfg, hp]), hpc]

/-! ## Reports -/

/-- Why a step that answers a next state has halted: its instruction ended the run, the decoder rejected its bytes, or
the successor lies beyond the top of memory. -/
theorem step_halted {s t : State} {r : Report} (h : step s = .next t) (hr : t.run = .halted r) :
    (∃ i, decode s.cfg (fetchBytes s) = .ok i ∧ Stops s i r ∧ t = raise r s) ∨
    (∃ e, decode s.cfg (fetchBytes s) = .error e ∧ r = rejectReport s.pc e ∧ t = raise r s) ∨
    (r = .fetchOutOfRange .successor t.pc ∧ t.cfg.pcOverflow = .fault) := by
  obtain ⟨hrun, ⟨i, hdec, hexec⟩ | ⟨e, hdec, rfl⟩⟩ := step_cases h
  case inr =>
    cases hr
    exact .inr (.inl ⟨e, hdec, rfl, rfl⟩)
  case inl =>
    cases ends_of_exec hexec with
    | goesOn =>
      rcases advance_cases i.operandBytes.length (effect s i) with ht | ⟨-, hp, ht⟩
      · rw [ht] at hr
        simp [hrun] at hr
      · rw [ht] at hr ⊢
        cases hr
        exact .inr (.inr ⟨rfl, hp⟩)
    | jumps a => simp [hrun] at hr
    | stops _ hstops =>
      cases hr
      exact .inl ⟨i, hdec, hstops, rfl⟩

theorem rejectReport_ne_clean (a : Byte) (e : Reject) : rejectReport a e ≠ .clean := by
  cases e <;> exact Report.noConfusion

/-- Settles O50: of the causes of a halt only HLT has the clean report. -/
theorem cleanHaltComesOnlyFromHlt : Obligations.CleanHaltComesOnlyFromHlt := by
  intro s t h hr
  rcases step_halted h hr with ⟨i, hdec, hstops, -⟩ | ⟨e, -, hclean, -⟩ | ⟨hclean, -⟩
  · cases hstops
    exact hdec
  · exact absurd hclean.symm (rejectReport_ne_clean _ _)
  · cases hclean

/-- Settles O51: of the causes of a halt only the successor stage comes after an effect. -/
theorem faultsArePrecise : Obligations.FaultsArePrecise := by
  intro s t r h hr hne
  rcases step_halted h hr with ⟨-, -, -, ht⟩ | ⟨-, -, -, ht⟩ | ⟨hsucc, -⟩
  · exact ht
  · exact ht
  · exact absurd hsucc (hne _)

/-- The byte at the program counter is the opcode of the instruction that its bytes decode to. -/
theorem readMem_pc_of_decode_ok {s : State} {i : Instr} (h : decode s.cfg (fetchBytes s) = .ok i) :
    readMem s s.pc = i.opcode := by
  rw [fetchBytes_eq_cons] at h
  exact (decode_ok_opcode h).symm

theorem reportFits_of_stops {s : State} {i : Instr} {r : Report} (h : Stops s i r)
    (hop : readMem s s.pc = i.opcode) : ReportFits (raise r s) := by
  cases h with
  | hlt => exact hop
  | int | iret => exact ⟨rfl, hop, by decide⟩
  | div a b | mod a b => exact ⟨rfl, hop⟩

/-- The report of a rejection fits: the decoder looked at the byte at the program counter, and rejects operands only
under the policy that lets it. -/
theorem reportFits_of_decode_error {s : State} {e : Reject} (h : decode s.cfg (fetchBytes s) = .error e) :
    ReportFits (raise (rejectReport s.pc e) s) := by
  obtain ⟨args, hfetch, hlen⟩ := exists_operands s
  rw [hfetch] at h
  rcases decode_error h with ⟨rfl, hmem⟩ | ⟨n, hn, ⟨rfl, hshort⟩ | ⟨v, rfl, hc, hv⟩⟩
  · exact ⟨rfl, rfl, fun hhandler => hmem (List.mem_append_left _ hhandler)⟩
  · rcases hlen with ⟨-, hlen⟩ | ⟨hp, -⟩
    · omega
    · exact ⟨rfl, hp⟩
  · exact ⟨rfl, rfl, hv, hc⟩

/-- Settles O55: a running machine has no report, and each cause of a halt leaves one that fits. -/
theorem stepLeavesAFittingReport : Obligations.StepLeavesAFittingReport := by
  intro s t h
  cases hr : t.run with
  | running => simp only [ReportFits, hr]
  | halted r =>
    rcases step_halted h hr with ⟨i, hdec, hstops, rfl⟩ | ⟨e, hdec, rfl, rfl⟩ | ⟨rfl, hp⟩
    · exact reportFits_of_stops hstops (readMem_pc_of_decode_ok hdec)
    · exact reportFits_of_decode_error hdec
    · simp only [ReportFits, hr]
      exact ⟨trivial, hp⟩

end Sys2Proof.Proofs
end

section
/-! PROOFS. The statements about the faults of fetching and decoding, each at the step (60_exceptions R172, R174,
R175). -/

namespace Sys2Proof.Proofs

open Sys2Proof.Machine Sys2Proof.Safety

/-! ## Rejections by format -/

section
variable {c : Config} {op v w : Byte} {args : List Byte}

theorem opcodeCnt_of_mem_opcodesN : ∀ op ∈ opcodesN, opcodeCnt op = 0 := by decide

theorem opcodeCnt_of_mem_opcodesR : ∀ op ∈ opcodesR, opcodeCnt op = 1 := by decide

theorem opcodeCnt_of_mem_opcodesT : ∀ op ∈ opcodesT, opcodeCnt op = 1 := by decide

theorem opcodeCnt_of_mem_opcodesRI : ∀ op ∈ opcodesRI, opcodeCnt op = 2 := by decide

theorem opcodeCnt_of_mem_opcodesRR : ∀ op ∈ opcodesRR, opcodeCnt op = 2 := by decide

theorem decodeRI_of_length_lt_two (mk : Reg → Byte → Instr) (h : args.length < 2) :
    decodeRI c op mk args = .error .truncated := by
  match args, h with
  | [], _ => rfl
  | [_], _ => rfl

theorem decodeRR_of_length_lt_two (mk : Reg → Reg → Instr) (h : args.length < 2) :
    decodeRR c op mk args = .error .truncated := by
  match args, h with
  | [], _ => rfl
  | [_], _ => rfl

/-- An operand that cannot be fetched is the first thing wrong with an opcode that has a handler
(40_execution_cycle R75). -/
theorem decode_truncated (hmem : op ∈ handlerOpcodes) (hshort : args.length < opcodeCnt op) :
    decode c (op :: args) = .error .truncated := by
  have hd : decode c (op :: args) = decodeOp c op args := rfl
  rcases mem_handlerOpcodes_iff.1 hmem with h | h | h | h | h
  · rw [opcodeCnt_of_mem_opcodesN op h] at hshort
    exact absurd hshort (Nat.not_lt_zero _)
  · obtain ⟨mk, row⟩ := exists_rowR h
    rw [opcodeCnt_of_mem_opcodesR op h, Nat.lt_one_iff, List.length_eq_zero_iff] at hshort
    rw [hd, row.decodeOp_eq, hshort, decodeR]
  · obtain ⟨mk, row⟩ := exists_rowT h
    rw [opcodeCnt_of_mem_opcodesT op h, Nat.lt_one_iff, List.length_eq_zero_iff] at hshort
    rw [hd, row.decodeOp_eq, hshort, decodeT]
  · obtain ⟨mk, row⟩ := exists_rowRI h
    rw [opcodeCnt_of_mem_opcodesRI op h] at hshort
    rw [hd, row.decodeOp_eq, decodeRI_of_length_lt_two mk hshort]
  · obtain ⟨mk, row⟩ := exists_rowRR h
    rw [opcodeCnt_of_mem_opcodesRR op h] at hshort
    rw [hd, row.decodeOp_eq, decodeRR_of_length_lt_two mk hshort]

theorem decode_invalid_of_mem_opcodesR (hc : c.regIndex = .fault) (h : op ∈ opcodesR) (hv : 8 ≤ v.toNat) :
    decode c (op :: v :: args) = .error (.invalidRegister op v) := by
  obtain ⟨mk, row⟩ := exists_rowR h
  simp only [decode, row.decodeOp_eq, decodeR, hc, regIndex_fault_eq_none.2 hv]

theorem decode_invalid_of_mem_opcodesT (hc : c.regIndex = .fault) (h : op ∈ opcodesT) (hm : c.targetMode = .reg)
    (hv : 8 ≤ v.toNat) : decode c (op :: v :: args) = .error (.invalidRegister op v) := by
  obtain ⟨mk, row⟩ := exists_rowT h
  simp only [decode, row.decodeOp_eq, decodeT, targetOperand_reg hm, hc, regIndex_fault_eq_none.2 hv,
    Option.map_none]

theorem decode_invalid_first (hc : c.regIndex = .fault) (h : op ∈ opcodesRI ++ opcodesRR) (hv : 8 ≤ v.toNat) :
    decode c (op :: v :: w :: args) = .error (.invalidRegister op v) := by
  rcases List.mem_append.1 h with h | h
  · obtain ⟨mk, row⟩ := exists_rowRI h
    simp only [decode, row.decodeOp_eq, decodeRI, hc, regIndex_fault_eq_none.2 hv]
  · obtain ⟨mk, row⟩ := exists_rowRR h
    simp only [decode, row.decodeOp_eq, decodeRR, hc, regIndex_fault_eq_none.2 hv]

theorem decode_invalid_second (hc : c.regIndex = .fault) (h : op ∈ opcodesRR) (hv : v.toNat < 8)
    (hw : 8 ≤ w.toNat) : decode c (op :: v :: w :: args) = .error (.invalidRegister op w) := by
  obtain ⟨mk, row⟩ := exists_rowRR h
  have hva : regIndex .fault v = some ⟨v.toNat, hv⟩ := dif_pos hv
  simp only [decode, row.decodeOp_eq, decodeRR, hc, hva, regIndex_fault_eq_none.2 hw]

end

/-! ## The step -/

theorem exec_int (s : State) : exec .int s = .next (raise (.unknownInstruction 0x52#8 s.pc) s) := rfl

theorem exec_iret (s : State) : exec .iret s = .next (raise (.unknownInstruction 0x13#8 s.pc) s) := rfl

/-- Settles O43, by what INT and IRET do and by their rows. -/
theorem intIretRaiseUnknownInstruction : Obligations.IntIretRaiseUnknownInstruction :=
  fun s => ⟨exec_int s, exec_iret s, fun _ => ⟨rfl, rfl⟩⟩

/-- Settles O11: an opcode outside the table is rejected as unknown, and the two of the table that have no handler
raise the same fault when they execute. -/
theorem opcodeWithoutHandlerEndsTheRun : Obligations.OpcodeWithoutHandlerEndsTheRun := by
  intro s hrun hno
  have hfetch := fetchBytes_eq_cons s
  by_cases hmem : readMem s s.pc ∈ tableOpcodes
  case neg =>
    rw [← decode_eq_unknownOpcode_iff s.cfg _ _, ← hfetch] at hmem
    exact step_of_decode_error hrun hmem
  case pos =>
    have hop := (List.mem_append.1 hmem).resolve_left hno
    simp only [List.mem_cons, List.not_mem_nil, or_false] at hop
    rcases hop with hop | hop
    all_goals rw [hop] at hfetch ⊢
    · exact (step_of_decode_ok (i := .int) hrun (by rw [hfetch]; rfl)).trans (exec_int s)
    · exact (step_of_decode_ok (i := .iret) hrun (by rw [hfetch]; rfl)).trans (exec_iret s)

/-- Settles O12: the last operand beyond 0xFF means that fewer bytes are fetched than the opcode has operands. -/
theorem operandBeyondTopOfMemoryFaults : Obligations.OperandBeyondTopOfMemoryFaults := by
  intro s hrun hp hmem hpast
  obtain ⟨args, hfetch, hlen⟩ := exists_operands s
  have hshort : args.length < opcodeCnt (readMem s s.pc) := by
    have hcnt := opcodeCnt_le_two_of_mem_tableOpcodes _ (List.mem_append_left _ hmem)
    unfold opcodeCnt at hcnt ⊢
    rcases hlen with ⟨hwrap | hfits, -⟩ | ⟨-, hlen⟩
    · rw [hp] at hwrap
      cases hwrap
    · omega
    · omega
  exact step_of_decode_error hrun (hfetch ▸ decode_truncated hmem hshort)

/-- Settles O13, by the rejection that each format gives. -/
theorem registerOperandAboveSevenFaults : Obligations.RegisterOperandAboveSevenFaults := by
  intro s op v rest hrun hc
  refine ⟨fun h hv hf => ?r, fun h hm hv hf => ?t, fun w h hv hf => ?first, fun w h hv hw hf => ?second⟩
  case r => exact step_of_decode_error hrun (hf ▸ decode_invalid_of_mem_opcodesR hc h hv)
  case t => exact step_of_decode_error hrun (hf ▸ decode_invalid_of_mem_opcodesT hc h hm hv)
  case first => exact step_of_decode_error hrun (hf ▸ decode_invalid_first hc h hv)
  case second => exact step_of_decode_error hrun (hf ▸ decode_invalid_second hc h hv hw)

end Sys2Proof.Proofs
end

section
/-! PROOFS. The statements about single instructions: each by the value that its shape gives and the frame of its
effect. -/

namespace Sys2Proof.Proofs

open Sys2Proof.Machine Sys2Proof.Safety

/-! ## The frame of an instruction that goes on inside memory -/

theorem advance_of_fits_eq_add {n : Nat} {s : State} (h : Fits (n + 1) s) :
    advance n s = { s with pc := s.pc + BitVec.ofNat 8 (n + 1) } := by
  unfold Fits at h
  rw [advance_of_fits (by omega), Nat.add_assoc, Nat.add_comm 1 n, ofNat_toNat_add]

/-- Only the registers and cells of the instruction's lists change, and the program counter moves by its length. -/
theorem advance_effect_frame (i : Instr) {s : State} (h : Fits (i.operandBytes.length + 1) s) :
    SameRegsBut (writtenRegs i) s (advance i.operandBytes.length (effect s i)) ∧
      SameMemBut (writtenCells s i) s (advance i.operandBytes.length (effect s i)) ∧
      SameRun s (advance i.operandBytes.length (effect s i)) ∧
      ProgressedBy (i.operandBytes.length + 1) s (advance i.operandBytes.length (effect s i)) := by
  have he : Fits (i.operandBytes.length + 1) (effect s i) := by rwa [Fits, effect_pc]
  obtain ⟨hrun, hcfg⟩ := sameRun_advance he
  refine ⟨fun r hr => ?regs, fun a ha => ?cells, ⟨hrun.trans (effect_run s i), hcfg.trans (effect_cfg s i)⟩, ?pc⟩
  case regs => rw [readReg_advance, effect_regs s i r hr]
  case cells => rw [readMem_advance, effect_cells s i a ha]
  case pc =>
    have hpc := progressedBy_advance he
    rwa [ProgressedBy, effect_pc] at hpc

/-! ## ALU (41_alu) -/

theorem toNat_aluDiv (x y : Byte) : (aluDiv x y).toNat = x.toNat / y.toNat := by
  rw [aluDiv, BitVec.toNat_ofNat]
  exact Nat.mod_eq_of_lt ((Nat.div_le_self ..).trans_lt x.isLt)

theorem toNat_aluMod (x y : Byte) : (aluMod x y).toNat = x.toNat % y.toNat := by
  rw [aluMod, BitVec.toNat_ofNat]
  exact Nat.mod_eq_of_lt ((Nat.mod_le ..).trans_lt x.isLt)

theorem toNat_aluShl (x y : Byte) : (aluShl x y).toNat = x.toNat * 2 ^ y.toNat % 256 := by
  rw [aluShl, BitVec.toNat_shiftLeft, Nat.shiftLeft_eq]

theorem toNat_aluShr (x y : Byte) : (aluShr x y).toNat = x.toNat / 2 ^ y.toNat := by
  rw [aluShr, BitVec.toNat_ushiftRight, Nat.shiftRight_eq_div_pow]

theorem exec_div (a b : Reg) (s : State) : exec (.div a b) s = .next (aluDivide .div aluDiv a b s) := rfl

theorem exec_mod (a b : Reg) (s : State) : exec (.mod a b) s = .next (aluDivide .mod aluMod a b s) := rfl

/-- Settles O22: for a divisor that is not 0 the division goes on as the other two-register operations do. -/
theorem divModWriteQuotientAndRemainder : Obligations.DivModWriteQuotientAndRemainder := by
  intro s a b hfits hb
  rw [exec_div, exec_mod, aluDivide_of_ne_zero .div aluDiv a b hb, aluDivide_of_ne_zero .mod aluMod a b hb]
  refine ⟨⟨_, rfl, ?div, aluBinary_advance_frame aluDiv a b hfits⟩,
    ⟨_, rfl, ?mod, aluBinary_advance_frame aluMod a b hfits⟩⟩
  case div => rw [readReg_advance, readReg_aluBinary_self, toNat_aluDiv]
  case mod => rw [readReg_advance, readReg_aluBinary_self, toNat_aluMod]

/-- Settles O23: a zero divisor raises the fault before any write. -/
theorem divModByZeroRaiseAluFault : Obligations.DivModByZeroRaiseAluFault := by
  intro s a b hb
  rw [exec_div, exec_mod, aluDivide_of_zero .div aluDiv a b hb, aluDivide_of_zero .mod aluMod a b hb]
  exact ⟨rfl, rfl⟩

/-- Settles O25, by the comparison's flags and the frame of CMP. -/
theorem cmpWritesAllThreeFlags : Obligations.CmpWritesAllThreeFlags := by
  intro s a b hfits
  obtain ⟨hregs, hcells, hrun, hpc⟩ := advance_effect_frame (.cmp a b) hfits
  refine ⟨_, rfl, ?e, ?g, ?l, hregs, hcells, advance_out .., hrun, hpc⟩
  all_goals rw [advance_flags, writeFlags_flags, compareFlags, decide_eq_true_eq]

/-- Settles O27: a shift by any amount multiplies or divides by that power of two. -/
theorem shiftsUseTheWholeAmount : Obligations.ShiftsUseTheWholeAmount := by
  intro s a b hfits
  refine ⟨⟨_, rfl, ?shl, aluBinary_advance_frame aluShl a b hfits⟩,
    ⟨_, rfl, ?shr, aluBinary_advance_frame aluShr a b hfits⟩⟩
  case shl => rw [readReg_advance, readReg_aluBinary_self, toNat_aluShl]
  case shr => rw [readReg_advance, readReg_aluBinary_self, toNat_aluShr]

/-! ## Data movement and output (42_data_movement) -/

/-- ST writes the second register to the cell that the first one addresses and goes on (42_data_movement R122). -/
theorem exec_st (a b : Reg) (s : State) :
    exec (.st a b) s = .next (advance 2 (writeMem s (readReg s a) (readReg s b))) := rfl

theorem readMem_after_store (n : Nat) (s : State) (a v : Byte) : readMem (advance n (writeMem s a v)) a = v := by
  rw [readMem_advance, readMem_writeMem_self]

/-- Settles O29, by the read-after-write rule of the register file and the frame of a register write. -/
theorem ldReadsTheAddressedCell : Obligations.LdReadsTheAddressedCell := by
  intro s a b hfits
  refine ⟨_, rfl, ?value, writeReg_advance_frame a _ hfits⟩
  rw [readReg_advance, readReg_writeReg_self, indirectAddr]

/-- Settles O30, by the read-after-write rule of memory and the frame of ST. -/
theorem stWritesTheAddressedCell : Obligations.StWritesTheAddressedCell := by
  intro s a b hfits
  obtain ⟨hregs, hcells, hrun, hpc⟩ := advance_effect_frame (.st a b) hfits
  exact ⟨_, exec_st a b s, rfl, readMem_after_store .., ⟨hregs, hcells, advance_flags .., advance_out .., hrun⟩, hpc⟩

/-- Settles O31: the first byte fetched after the ST is the one at its successor, the cell it wrote. -/
theorem storeIsSeenByTheNextFetch : Obligations.StoreIsSeenByTheNextFetch := by
  intro s t a b hfits haddr hexec
  rw [exec_st, haddr] at hexec
  cases hexec
  have hw : Fits 3 (writeMem s (s.pc + 3#8) (readReg s b)) := hfits
  have hpc : (advance 2 (writeMem s (s.pc + 3#8) (readReg s b))).pc = s.pc + 3#8 := by
    rw [advance_of_fits_eq_add hw, writeMem_pc]
  rw [fetchBytes_eq_cons, hpc, readMem_after_store]
  exact ⟨_, rfl⟩

/-- Settles O32, by the event that `emit` appends and the frames of PRN and PRA. -/
theorem prnPraAppendOneEvent : Obligations.PrnPraAppendOneEvent := by
  intro s a hfits
  obtain ⟨hregs, hcells, hrun, hpc⟩ := advance_effect_frame (.prn a) hfits
  obtain ⟨hregs', hcells', hrun', hpc'⟩ := advance_effect_frame (.pra a) hfits
  refine ⟨⟨_, rfl, ?prn, hregs, hcells, advance_flags .., hrun, hpc⟩,
    ⟨_, rfl, ?pra, hregs', hcells', advance_flags .., hrun', hpc'⟩⟩
  all_goals rw [advance_out, emit_out]

/-! ## Stack (43_stack) -/

/-- One less modulo 256 is 255 more (43_stack R130). -/
theorem toNat_sp_decSp (s : State) : (sp (decSp s)).toNat = ((readReg s 7).toNat + 255) % 256 := by
  rw [sp_decSp]
  exact toNat_aluDec (sp s)

/-- What PUSH and CALL read after the stack pointer went down (43_stack R131). -/
theorem readReg_decSp (s : State) (r : Reg) : readReg (decSp s) r = if r = 7 then sp (decSp s) else readReg s r := by
  split
  case isTrue h => rw [h, sp_eq_readReg_seven]
  case isFalse h => exact readReg_decSp_ne s h

/-- Settles O33: PUSH reads its register after R7 went down, and its frame is that of its effect. -/
theorem pushStoresBelowTheStackPointer : Obligations.PushStoresBelowTheStackPointer := by
  intro s a hfits
  obtain ⟨hregs, hcells, hrun, hpc⟩ := advance_effect_frame (.push a) hfits
  refine ⟨_, rfl, toNat_sp_decSp s, ?seven, ?cell, ⟨hregs, hcells, advance_flags .., advance_out .., hrun⟩, hpc⟩
  case seven => rw [readReg_advance, readReg_writeMem, sp_eq_readReg_seven]
  case cell => rw [readMem_after_store, readReg_decSp]

/-- Settles O34: POP writes its register before R7 goes up, so that POP R7 increments the popped byte. -/
theorem popLoadsFromTheStackPointer : Obligations.PopLoadsFromTheStackPointer := by
  intro s a hfits
  obtain ⟨hregs, hcells, hrun, hpc⟩ := advance_effect_frame (.pop a) hfits
  refine ⟨_, rfl, fun ha => ⟨?value, ?seven⟩, fun ha => ?popSeven,
    ⟨hregs, hcells, advance_flags .., advance_out .., hrun⟩, hpc⟩
  case value => rw [readReg_advance, readReg_incSp_ne _ ha, readReg_writeReg_self, sp_eq_readReg_seven]
  case seven =>
    rw [readReg_advance, readReg_incSp_seven, readReg_writeReg_ne s _ (Ne.symm ha), BitVec.toNat_add,
      BitVec.toNat_ofNat]
  case popSeven =>
    rw [ha, readReg_advance, readReg_incSp_seven, readReg_writeReg_self, sp_eq_readReg_seven, BitVec.toNat_add,
      BitVec.toNat_ofNat]

/-- One up after one down is where R7 was, modulo 256. -/
theorem eq_seven_of_toNat {s : State} {v : Byte} (h : v.toNat = ((sp (decSp s)).toNat + 1) % 256) :
    v = readReg s 7 := by
  have hlt := (readReg s 7).isLt
  apply BitVec.eq_of_toNat_eq
  rw [h, toNat_sp_decSp]
  omega

theorem fits_of_progressedBy {m n : Nat} {s t : State} (h : Fits (m + n) s) (ht : ProgressedBy m s t) : Fits n t := by
  unfold Fits at h ⊢
  unfold ProgressedBy at ht
  omega

theorem fits_of_le {m n : Nat} {s : State} (h : Fits n s) (hmn : m ≤ n) : Fits m s :=
  (Nat.add_le_add_left hmn _).trans h

/-- Settles O35, from what PUSH and POP do one after the other: R7 goes down and up again, and POP finds the cell that
PUSH wrote. -/
theorem pushThenPopCopiesTheRegister : Obligations.PushThenPopCopiesTheRegister := by
  refine ⟨fun s src dst hfits hsrc hdst => ?copy, fun s hfits => ?onSeven⟩
  case copy =>
    obtain ⟨t, ht, -, ht7, hcell, ⟨hregs, -, -, -, -⟩, hpc⟩ :=
      pushStoresBelowTheStackPointer s src (fits_of_le hfits (by decide))
    obtain ⟨u, hu, hother, -, ⟨hregs', hcells', -, -, -⟩, hpc'⟩ :=
      popLoadsFromTheStackPointer t dst (fits_of_progressedBy hfits hpc)
    obtain ⟨hvalue, hu7⟩ := hother hdst
    rw [if_neg hsrc] at hcell
    rw [ht7] at hvalue hu7
    refine ⟨t, u, ht, hu, hvalue.trans hcell, fun r hr => ?regs, ?cell, ?pc⟩
    case regs =>
      by_cases h7 : r = 7
      · rw [h7, eq_seven_of_toNat hu7]
      · rw [hregs' r (by simp_all), hregs r (by simp [h7])]
    case cell =>
      rw [← sp_eq_readReg_seven s, ← sp_decSp s]
      exact (hcells' _ List.not_mem_nil).trans hcell
    case pc =>
      unfold ProgressedBy at *
      omega
  case onSeven =>
    obtain ⟨t, ht, -, ht7, hcell, ⟨hregs, -, -, -, -⟩, hpc⟩ :=
      pushStoresBelowTheStackPointer s 7 (fits_of_le hfits (by decide))
    obtain ⟨u, hu, -, hseven, ⟨hregs', -, -, -, -⟩, -⟩ :=
      popLoadsFromTheStackPointer t 7 (fits_of_progressedBy hfits hpc)
    have hu7 := hseven rfl
    rw [ht7, hcell, if_pos rfl] at hu7
    refine ⟨t, u, ht, hu, fun r _ => ?_⟩
    by_cases h7 : r = 7
    · rw [h7, eq_seven_of_toNat hu7]
    · rw [hregs' r (by simp [h7]), hregs r (by simp [h7])]

/-! ## Control flow (44_control_flow) -/

/-- Settles O36: JMP is `jumpTo` of its target's value. -/
theorem jmpSetsThePcToItsTarget : Obligations.JmpSetsThePcToItsTarget :=
  fun _ => ⟨fun _ => ⟨rfl, rfl⟩, fun _ => ⟨rfl, rfl⟩⟩

section
variable (s : State) (t : Target)

theorem exec_jeq : exec (.jeq t) s = .next (branchIf (condEq s.flags) t s) := rfl

theorem exec_jne : exec (.jne t) s = .next (branchIf (condNe s.flags) t s) := rfl

theorem exec_jgt : exec (.jgt t) s = .next (branchIf (condGt s.flags) t s) := rfl

theorem exec_jlt : exec (.jlt t) s = .next (branchIf (condLt s.flags) t s) := rfl

theorem exec_jle : exec (.jle t) s = .next (branchIf (condLe s.flags) t s) := rfl

theorem exec_jge : exec (.jge t) s = .next (branchIf (condGe s.flags) t s) := rfl

end

theorem condNe_eq_true {f : Flags} (h : f.e = false) : condNe f = true := by rw [condNe, h]; rfl

theorem condNe_eq_false {f : Flags} (h : f.e = true) : condNe f = false := by rw [condNe, h]; rfl

/-- Settles O37: every conditional jump is a branch on its condition, here the side that jumps. -/
theorem conditionalJumpsBranchWhenTheirConditionHolds : Obligations.ConditionalJumpsBranchWhenTheirConditionHolds := by
  intro s t
  have jump {cond : Bool} (h : cond = true) :
      (.next (branchIf cond t s) : Answer) = .next { s with pc := targetValue s t } :=
    congrArg _ (branchIf_of_true s h t)
  exact ⟨fun h => (exec_jeq s t).trans (jump h), fun h => (exec_jne s t).trans (jump (condNe_eq_true h)),
    fun h => (exec_jgt s t).trans (jump h), fun h => (exec_jlt s t).trans (jump h),
    fun h => (exec_jle s t).trans (jump (Bool.or_eq_true_iff.2 h)),
    fun h => (exec_jge s t).trans (jump (Bool.or_eq_true_iff.2 h))⟩

/-- Settles O38: every conditional jump is a branch on its condition, here the side that goes on. -/
theorem conditionalJumpsFallThroughOtherwise : Obligations.ConditionalJumpsFallThroughOtherwise := by
  intro s t hfits
  have fall {cond : Bool} (h : cond = false) :
      (.next (branchIf cond t s) : Answer) = .next { s with pc := s.pc + 2#8 } :=
    congrArg _ ((branchIf_of_false s h t).trans (advance_of_fits_eq_add hfits))
  exact ⟨fun h => (exec_jeq s t).trans (fall h), fun h => (exec_jne s t).trans (fall (condNe_eq_false h)),
    fun h => (exec_jgt s t).trans (fall h), fun h => (exec_jlt s t).trans (fall h),
    fun h => (exec_jle s t).trans (fall (Bool.or_eq_false_iff.2 h)),
    fun h => (exec_jge s t).trans (fall (Bool.or_eq_false_iff.2 h))⟩

/-- Settles O39: the push by the read-after-write rules, the frame by the effect of CALL, and the target because a
register is read after R7 went down. -/
theorem callPushesTheReturnAddressAndJumps : Obligations.CallPushesTheReturnAddressAndJumps := by
  intro s tg
  have hexec := exec_call tg s
  refine ⟨_, hexec, toNat_sp_decSp s, ?seven, ?cell,
    ⟨effect_regs s (.call tg), effect_cells s (.call tg), rfl, rfl, rfl, rfl⟩, fun v hv => ?imm, fun r hr => ?reg⟩
  case seven => exact (exec_call_decrements_seven hexec).trans (sp_decSp s).symm
  case cell =>
    rw [readMem_jumpTo, pushReturn, readMem_writeMem_self, BitVec.toNat_add]
    rfl
  case imm =>
    rw [hv]
    rfl
  case reg =>
    rw [hr, jumpTo_pc, targetValue, pushReturn, readReg_writeMem, readReg_decSp]

/-! ## System (45_system) -/

theorem exec_nop (s : State) : exec .nop s = .next (advance 0 s) := rfl

/-- Settles O41: NOP is `advance` alone, and a cell that holds 0x00 decodes to it. -/
theorem nopOnlyAdvances : Obligations.NopOnlyAdvances := by
  refine ⟨rfl, fun s hfits => ?fits, fun s hpc hp => ?fault, fun s hpc hp => ?wrap, fun s hrun hcell => ?zeroCell⟩
  case fits => rw [exec_nop, advance_of_fits_eq_add hfits]
  case fault =>
    rw [exec_nop, advance_past_fault (by rw [hpc]; decide) hp, ← hpc]
    rfl
  case wrap =>
    rw [exec_nop, advance_wrap hp, hpc]
    rfl
  case zeroCell =>
    refine step_of_decode_ok hrun ?_
    rw [fetchBytes_eq_cons, hcell]
    rfl

end Sys2Proof.Proofs
end

section
/-! PROOFS. The statements about reset and about what `load` writes (70_reset_and_hazards, 20_memory R40). -/

namespace Sys2Proof.Proofs

open Sys2Proof.Machine Sys2Proof.Safety

theorem readMem_resetWith (c : Config) (a : Byte) : readMem (State.resetWith c) a = 0x00#8 := rfl

theorem readReg_reset_of_ne_seven : ∀ r : Reg, r ≠ 7 → readReg State.reset r = 0x00#8 := by decide

/-- Settles O1: the registers by their list, since the parameters change none of them, the rest as reset names it. -/
theorem resetPutsEveryPieceAtItsValue : Obligations.ResetPutsEveryPieceAtItsValue :=
  ⟨fun c => ⟨readReg_reset_of_ne_seven, rfl, rfl, rfl, rfl, rfl, rfl, rfl, readMem_resetWith c, rfl⟩, rfl,
    fun _ => rfl⟩

/-- Settles O56: no cell is listed, no flag is set, and a machine that runs has no report. -/
theorem resetMeetsTheInvariants : Obligations.ResetMeetsTheInvariants :=
  fun _ => ⟨reset_wf, by simp [FlagsExclusive, State.resetWith], trivial⟩

/-- Bytes stored at rising addresses from `k` are read back there, and every other cell is as before. -/
theorem memRead_storeFrom (image : List Byte) (k : Nat) (m : Memory) (a : Nat) :
    memRead (storeFrom k image m) a =
      if k ≤ a ∧ a < k + image.length then image.getD (a - k) 0x00#8 else memRead m a := by
  induction image generalizing k m with
  | nil =>
    rw [if_neg (by simp)]
    rfl
  | cons v vs ih =>
    rw [storeFrom, ih, memRead_memWrite, List.length_cons]
    rcases Nat.lt_trichotomy a k with hlt | rfl | hgt
    · rw [if_neg (by omega), if_neg (by omega), if_neg (by omega)]
    · simp
    · obtain ⟨d, rfl⟩ := Nat.exists_eq_add_of_lt hgt
      have hd : k + d + 1 - k = (k + d + 1 - (k + 1)) + 1 := by omega
      rw [hd, List.getD_cons_succ, if_neg (show k + d + 1 ≠ k by omega)]
      exact if_congr (by omega) rfl rfl

theorem loadImage_of_length_le {image : List Byte} (h : image.length ≤ Config.memSize) (s : State) :
    loadImage image s = (.ok, { s with mem := storeFrom 0 image s.mem }) :=
  if_pos h

/-- Settles O2: reset lists no cell, `load` stores its image from address 0, and 0x00 is NOP's row. -/
theorem loadOverwritesCellsFromZero : Obligations.LoadOverwritesCellsFromZero := by
  refine ⟨readMem_resetWith, fun image s hlen => ?load, fun _ _ => rfl⟩
  case load =>
    rw [loadImage_of_length_le hlen]
    refine ⟨rfl, fun a => ?_, rfl, rfl, rfl, rfl, rfl, rfl⟩
    simp only [readMem, memRead_storeFrom, Nat.zero_le, true_and, Nat.zero_add, Nat.sub_zero]

end Sys2Proof.Proofs
end
